-- ==== Sys2Proof/Word.lean ====
section
/-! DEFINITION. The value types every layer uses (00_scope.md R10, R11): all quantities of CORE are unsigned
integers, so a transport word is a natural number; its bound `< 2 ^ W` is a premise, never a mask (D26, log 9). -/

namespace Sys2Proof

/-- A transport word (R11). The width W is an operand or a configuration field, so the bound is stated where a
word is used: `Instr.wellFormed` for operands, `State.answered` for replies. -/
abbrev TransportWord := Nat

/-- A channel index c in 0..7 (R11, R73). -/
abbrev Channel := Fin 8

/-- The channel of antenna element `e + 1`, sub-element a (0) or b (1): c = 2 * e + sub (R73; E1A = 0, E1B = 1,
E2A = 2, ..., E4B = 7). -/
def Channel.of (e : Fin 4) (sub : Fin 2) : Channel :=
  ⟨2 * e.val + sub.val, by omega⟩

end Sys2Proof
end

