-- ==== Sys2Proof/Syntax.lean ====
section
/-! DEFINITION. The twelve operations of 30_encoding.md R88, one constructor a row of opcode_table.json, with the
operands R23 names, as sampled at acceptance (R66); and the raw form a caller presents, the operand registers. -/

namespace Sys2Proof

/-- The caller-facing operand registers (R23) with the table's widths (log 16): the raw form of an operation, what
95_test_vectors.md section 7 calls its port encoding. -/
structure Port where
  op : BitVec 4
  mode : BitVec 2
  kind : BitVec 4
  chan : BitVec 3
  level : BitVec 8
  en : BitVec 8
  asserted : Bool
  index : BitVec 8
  payload : BitVec 64
  values : List (Nat × Nat)
  words : List TransportWord
  outWidth : Nat
  bigEndian : Bool
  expectReply : Bool
  readLen : Nat
  deriving DecidableEq, Repr

/-- The encoder a SEND runs, named by KIND, with that encoder's own operands (R170). -/
inductive EncCmd where
  | onOffMask (en : BitVec 8)
  | attenuation (chan : Channel) (level : BitVec 8)
  | commonAttenuation (level : BitVec 8)
  | phase (chan : Channel) (level : BitVec 8)
  | reset (asserted : Bool)
  | rfEnable (asserted : Bool)
  | initEntry (index : BitVec 8) (payload : BitVec 64)
  /-- a KIND outside 0x2..0x8, which names no encoder (R89) -/
  | reserved (kind : BitVec 4)
  deriving DecidableEq, Repr

/-- The operations of R88 with their operands. -/
inductive Instr where
  | pack (values : List (Nat × Nat)) (outWidth : Nat) (bigEndian : Bool)
  | unpack (words : List TransportWord) (outWidth : Nat)
  | onOffMask (en : BitVec 8)
  | attenuation (chan : Channel) (level : BitVec 8)
  | commonAttenuation (level : BitVec 8)
  | phase (chan : Channel) (level : BitVec 8)
  | reset (asserted : Bool)
  | rfEnable (asserted : Bool)
  | initEntry (index : BitVec 8) (payload : BitVec 64)
  | decodeTelemetry (words : List TransportWord) (outWidth : Nat)
  | modeLineValue (mode : BitVec 2)
  | send (mode : BitVec 2) (cmd : EncCmd) (expectReply : Bool) (readLen : Nat)
  deriving DecidableEq, Repr

end Sys2Proof
end

