-- ==== Sys2Proof/WellFormed.lean ====
section
/-! DEFINITION. Which operations are well typed. A TransportWord is a W-bit vector (R11), so a word of WORDS that does
not fit OUT_WIDTH bits cannot occur; the model carries the bound here and nowhere masks (R110, U12, D26). With
OUT_WIDTH = 0 there is no bound to carry: the operation ends in InvalidRegisterWidth whatever the words are
(95_test_vectors.md: UNPACK [1], 0). -/

namespace Sys2Proof

/-- Every word fits in W bits, or W = 0 and the operation refuses before it looks at a word (R110, R153). -/
def wordsFit (words : List TransportWord) (W : Nat) : Bool :=
  W == 0 || words.all (· < 2 ^ W)

/-- A KIND that names an encoder: 0x2..0x8 (R89). -/
def kindNamesEncoder (k : BitVec 4) : Bool :=
  2 ≤ k.toNat && k.toNat ≤ 8

/-- `reserved` stands for a KIND that names no encoder, and for no other (R89). -/
def EncCmd.wellFormed : EncCmd → Bool
  | .onOffMask _ => true
  | .attenuation _ _ => true
  | .commonAttenuation _ => true
  | .phase _ _ => true
  | .reset _ => true
  | .rfEnable _ => true
  | .initEntry _ _ => true
  | .reserved k => !kindNamesEncoder k

/-- A well-typed operation. Out-of-range LEVEL, INDEX, MODE, widths 0 are NOT ill-formed: CORE refuses them itself
with an error outcome (R85). -/
def Instr.wellFormed : Instr → Bool
  | .pack _ _ _ => true
  | .unpack words W => wordsFit words W
  | .onOffMask _ => true
  | .attenuation _ _ => true
  | .commonAttenuation _ => true
  | .phase _ _ => true
  | .reset _ => true
  | .rfEnable _ => true
  | .initEntry _ _ => true
  | .decodeTelemetry words W => wordsFit words W
  | .modeLineValue _ => true
  | .send _ cmd _ _ => cmd.wellFormed

end Sys2Proof
end

