-- ==== Sys2Proof/Decode.lean ====
section
/-! DEFINITION. Reading an operation from the operand registers and writing one to them (30_encoding.md R88, R89,
R92). `decode` is total on every content of the registers and rejects the reserved op codes by name. -/

namespace Sys2Proof

/-- Why the registers name no operation. -/
inductive DecodeReject where
  /-- OP in 0xC..0xF (R89); CORE answers it with RangeError 6 -/
  | reservedOp (op : BitVec 4)
  deriving DecidableEq, Repr

/-- All operand registers zero or empty. -/
def Port.zero : Port where
  op := 0
  mode := 0
  kind := 0
  chan := 0
  level := 0
  en := 0
  asserted := false
  index := 0
  payload := 0
  values := []
  words := []
  outWidth := 0
  bigEndian := false
  expectReply := false
  readLen := 0

/-- CHAN as a channel index; a 3-bit index cannot be out of range (R123). -/
def Port.channel (p : Port) : Channel := p.chan.toFin

/-- The encoder KIND names (R88 rows 0x2..0x8), with its operands; any other KIND names none (R89). -/
def decodeKind (p : Port) : EncCmd :=
  match p.kind.toNat with
  | 0x2 => .onOffMask p.en
  | 0x3 => .attenuation p.channel p.level
  | 0x4 => .commonAttenuation p.level
  | 0x5 => .phase p.channel p.level
  | 0x6 => .reset p.asserted
  | 0x7 => .rfEnable p.asserted
  | 0x8 => .initEntry p.index p.payload
  | _ => .reserved p.kind

/-- The operation OP names, with its operands (R88); 0xC..0xF are reserved (R89). -/
def decode (p : Port) : Except DecodeReject Instr :=
  match p.op.toNat with
  | 0x0 => .ok (.pack p.values p.outWidth p.bigEndian)
  | 0x1 => .ok (.unpack p.words p.outWidth)
  | 0x2 => .ok (.onOffMask p.en)
  | 0x3 => .ok (.attenuation p.channel p.level)
  | 0x4 => .ok (.commonAttenuation p.level)
  | 0x5 => .ok (.phase p.channel p.level)
  | 0x6 => .ok (.reset p.asserted)
  | 0x7 => .ok (.rfEnable p.asserted)
  | 0x8 => .ok (.initEntry p.index p.payload)
  | 0x9 => .ok (.decodeTelemetry p.words p.outWidth)
  | 0xA => .ok (.modeLineValue p.mode)
  | 0xB => .ok (.send p.mode (decodeKind p) p.expectReply p.readLen)
  | _ => .error (.reservedOp p.op)

/-- Writing the operands of the encoder a SEND runs, and its KIND (R88, R170). -/
def encodeKind (p : Port) : EncCmd → Port
  | .onOffMask en => { p with kind := 0x2, en := en }
  | .attenuation c l => { p with kind := 0x3, chan := .ofFin c, level := l }
  | .commonAttenuation l => { p with kind := 0x4, level := l }
  | .phase c l => { p with kind := 0x5, chan := .ofFin c, level := l }
  | .reset a => { p with kind := 0x6, asserted := a }
  | .rfEnable a => { p with kind := 0x7, asserted := a }
  | .initEntry n x => { p with kind := 0x8, index := n, payload := x }
  | .reserved k => { p with kind := k }

/-- The op code of an operation (R88). -/
def Instr.opCode : Instr → BitVec 4
  | .pack _ _ _ => 0x0
  | .unpack _ _ => 0x1
  | .onOffMask _ => 0x2
  | .attenuation _ _ => 0x3
  | .commonAttenuation _ => 0x4
  | .phase _ _ => 0x5
  | .reset _ => 0x6
  | .rfEnable _ => 0x7
  | .initEntry _ _ => 0x8
  | .decodeTelemetry _ _ => 0x9
  | .modeLineValue _ => 0xA
  | .send _ _ _ _ => 0xB

/-- The operand registers that present an operation: its op code and its operands; a register the operation does
not use is zero (R23, R88). -/
def encode (i : Instr) : Port :=
  let p : Port := { Port.zero with op := i.opCode }
  match i with
  | .pack vs W be => { p with values := vs, outWidth := W, bigEndian := be }
  | .unpack ws W => { p with words := ws, outWidth := W }
  | .onOffMask en => { p with en := en }
  | .attenuation c l => { p with chan := .ofFin c, level := l }
  | .commonAttenuation l => { p with level := l }
  | .phase c l => { p with chan := .ofFin c, level := l }
  | .reset a => { p with asserted := a }
  | .rfEnable a => { p with asserted := a }
  | .initEntry n x => { p with index := n, payload := x }
  | .decodeTelemetry ws W => { p with words := ws, outWidth := W }
  | .modeLineValue m => { p with mode := m }
  | .send m cmd er n => encodeKind { p with mode := m, expectReply := er, readLen := n } cmd

/-- The registers a word of opcode_table.json stands for: the table's rows lie over the 4-bit OP register (R92), so
the word's low four bits are OP, and the operands, to which the table gives no bits, are zero (log 8). -/
def Port.ofTableWord (_nbits w : Nat) : Port :=
  { Port.zero with op := BitVec.ofNat 4 w }

/-- The operation the decoder reads from a word numbered as opcode_table.json numbers it. -/
def decodeTableWord (nbits w : Nat) : Option Instr :=
  match decode (Port.ofTableWord nbits w) with
  | .ok i => some i
  | .error _ => none

end Sys2Proof
end

