-- ==== Sys2Proof/Config.lean ====
section
/-! DEFINITION. The configuration CFG (00_scope.md R7): the parameters the source leaves open, as plain data, the
conditions under which it is well formed (R9), and the two configurations of the test vectors (R8). The fixed
parameters of R7 are the named constants below. -/

namespace Sys2Proof

/-- REG_WIDTH: declared width of every BW0, BW1 and zero-tagged logical value (R7, R71). -/
def regWidth : Nat := 64
/-- MASK_OFF: offset of the on/off mask in BW0 (R74). -/
def maskOff : Nat := 34
/-- CATT_OFF: offset of the common-attenuation field in BW0 (R74). -/
def cattOff : Nat := 32
/-- ATT_MAX: largest legal attenuation level (R7). -/
def attMax : Nat := 15
/-- PH_MAX: largest legal phase level (R7). -/
def phMax : Nat := 63
/-- RESET_BIT: offset of the reset field in CTRL (R76). -/
def resetBit : Nat := 24
/-- RFEN_BIT: offset of the RF-enable field in CTRL (R76). -/
def rfenBit : Nat := 23
/-- N_INIT: number of INIT table entries (R7). -/
def nInit : Nat := 19

/-- The set the attenuation offsets run through: {0, 4, ..., 28} (R7). -/
def attOffsets : List Nat := [0, 4, 8, 12, 16, 20, 24, 28]
/-- The set the phase offsets run through: {0, 6, ..., 42} (R7). -/
def phOffsets : List Nat := [0, 6, 12, 18, 24, 30, 36, 42]

/-- The configuration of one block (R7). Fixed for the life of the block: no step writes it. -/
structure Config where
  /-- `CFG.W`, width of a transport word in command framing and reply decoding -/
  W : Nat
  /-- `CFG.ATT_OFF(c)`, one entry per channel -/
  attOff : Vector Nat 8
  /-- `CFG.PH_OFF(c)`, one entry per channel -/
  phOff : Vector Nat 8
  /-- `CFG.CATT_0DB` -/
  catt0dB : BitVec 2
  /-- `CFG.CATT_8DB` -/
  catt8dB : BitVec 2
  /-- `CFG.TAG_BW0`, already positioned -/
  tagBW0 : Nat
  /-- `CFG.TAG_BW1`, already positioned -/
  tagBW1 : Nat
  /-- `CFG.INIT_WIDTH` -/
  initWidth : Nat
  /-- `CFG.INIT_TAG_MASK` -/
  initTagMask : Nat
  /-- `CFG.INIT_TAG(n)`, one entry per table index 0..18 -/
  initTag : Vector Nat 19
  /-- `CFG.CMD_BIG_ENDIAN`, word order of a command packet -/
  cmdBigEndian : Bool
  deriving DecidableEq, Repr

namespace Config

/-- R9 clause (b): an offset table is a bijection from channels 0..7 onto the given eight offsets. -/
abbrev OffsetsOnto (table : Vector Nat 8) (offsets : List Nat) : Prop :=
  table.toList.Perm offsets

/-- R9 clause (c): a tag constant fits REG_WIDTH bits and has no bit set in the `used` low positions. -/
abbrev TagAbove (tag used : Nat) : Prop :=
  tag < 2 ^ regWidth ∧ tag % 2 ^ used = 0

/-- R9 clause (d): the two common-attenuation codes are distinct and neither is 0b10. -/
abbrev CattCodesOk (a b : BitVec 2) : Prop :=
  a ≠ b ∧ a ≠ 0b10#2 ∧ b ≠ 0b10#2

/-- R9 clause (e): the INIT tag lies under its mask and the mask inside INIT_WIDTH bits. -/
abbrev InitTagsOk (c : Config) : Prop :=
  64 ≤ c.initWidth ∧ c.initTagMask < 2 ^ c.initWidth ∧
    ∀ t ∈ c.initTag.toList, t ||| c.initTagMask = c.initTagMask

/-- R9: a well-formed configuration. Every rule of the spec assumes one (U13). -/
structure WF (c : Config) : Prop where
  wordWidth : 1 ≤ c.W
  attOffsets : OffsetsOnto c.attOff attOffsets
  phOffsets : OffsetsOnto c.phOff phOffsets
  tagBW0 : TagAbove c.tagBW0 42
  tagBW1 : TagAbove c.tagBW1 48
  catt : CattCodesOk c.catt0dB c.catt8dB
  initTags : InitTagsOk c

/-- R9 as a check that runs (`Laws/Config.lean` proves it is `WF`). -/
def wellFormed (c : Config) : Bool :=
  decide (1 ≤ c.W) && decide (OffsetsOnto c.attOff Sys2Proof.attOffsets) &&
    decide (OffsetsOnto c.phOff Sys2Proof.phOffsets) && decide (TagAbove c.tagBW0 42) &&
    decide (TagAbove c.tagBW1 48) && decide (CattCodesOk c.catt0dB c.catt8dB) && decide (InitTagsOk c)

/-- CFG_REF of R8 (D7): the spec's own instantiation for the vectors, not the source's. -/
def cfgRef : Config where
  W := 10
  attOff := #v[0, 4, 8, 12, 16, 20, 24, 28]
  phOff := #v[0, 6, 12, 18, 24, 30, 36, 42]
  catt0dB := 0b00#2
  catt8dB := 0b01#2
  tagBW0 := 0
  tagBW1 := 2 ^ 48
  initWidth := 64
  initTagMask := 0
  initTag := Vector.replicate 19 0
  cmdBigEndian := true

/-- CFG_ALT of R8 (D7): exists only to exercise non-zero tags. -/
def cfgAlt : Config :=
  { cfgRef with
    tagBW0 := 1 * 2 ^ 60
    tagBW1 := 2 * 2 ^ 60
    initWidth := 72
    initTagMask := 0xFF * 2 ^ 64
    initTag := Vector.ofFn fun n => (0x20 + n.val) * 2 ^ 64 }

end Config
end Sys2Proof
end

