-- ==== Sys2Proof/Machine/State.lean ====
section
/-! DEFINITION. The state of CORE (10_state.md R20 to R32) as plain data, and its reset. A register the spec says
holds no value until it is written is an `Option`, `none` meaning exactly that (R28, R32, U11; logs 6, 12). CORE has
no memory (R50). -/

namespace Sys2Proof.Machine

/-- A transport failure report, opaque (R7, D15): CORE passes it on and never looks inside. DESIGN CHOICE (log 2): a
token that a number tells from another. -/
structure TransportError where
  token : Nat
  deriving DecidableEq, Repr

/-- A logical register value with its declared width (R11). -/
structure LogicalValue where
  value : Nat
  width : Nat
  deriving DecidableEq, Repr

/-- A telemetry frame: nine unsigned fields (R11, R79). -/
structure Frame where
  temp : BitVec 6
  pwr0 : BitVec 5
  pwr1 : BitVec 5
  pwr2 : BitVec 5
  pwr3 : BitVec 5
  pwr4 : BitVec 5
  pwr5 : BitVec 5
  pwr6 : BitVec 5
  pwr7 : BitVec 5
  deriving DecidableEq, Repr

/-- The sequencer phase register (R24). -/
inductive Phase where
  | idle
  | linePending
  | xferPending
  deriving DecidableEq, Repr

/-- The closed set of error codes of ST_ERR (R191). -/
inductive ErrCode where
  | none
  | rangeError
  | invalidRegisterWidth
  | transportFailure
  deriving DecidableEq, Repr

/-- A transport request (R13), also an event of TRACE (R31): Line(v) or Xfer(words, n). -/
inductive Request where
  | line (v : BitVec 2)
  | xfer (words : List TransportWord) (n : Nat)
  deriving DecidableEq, Repr

/-- The transport's response to a request (R13). -/
inductive Response where
  | lineOk
  | lineFail (e : TransportError)
  | xferOk (reply : List TransportWord)
  | xferFail (e : TransportError)
  deriving DecidableEq, Repr

/-- What the world outside does to CORE, one event at a time (DESIGN CHOICE, log 3). -/
inductive Input where
  /-- the caller writes the operand registers and presents nothing new (R66) -/
  | drive (p : Port)
  /-- the caller writes the operand registers and presents the operation (R171) -/
  | present (p : Port)
  /-- the transport answers the request at position `id` of TRACE (log 4) -/
  | answer (id : Nat) (r : Response)
  /-- the block's reset (R220) -/
  | reset
  deriving DecidableEq, Repr

/-- The command latch (R25). -/
structure Latch where
  packet : List TransportWord
  readLen : Nat
  expect : Bool
  deriving DecidableEq, Repr

/-- The status registers (R27). -/
structure Status where
  /-- ST_ERR -/
  code : ErrCode
  /-- ST_INFO -/
  info : Nat
  /-- ST_STAGE -/
  stage : BitVec 1
  /-- ST_TF -/
  tf : Option TransportError
  deriving DecidableEq, Repr

/-- The result registers (R28; of a SEND that fails in the transport: R172, R174, log 21). -/
structure Results where
  /-- RES_LV -/
  lv : Option LogicalValue := none
  /-- RES_PACKET -/
  packet : Option (List TransportWord) := none
  /-- RES_INT -/
  int : Option LogicalValue := none
  /-- RES_FRAME -/
  frame : Option Frame := none
  /-- RES_REPLY -/
  reply : Option (List TransportWord) := none
  /-- RES_LINE -/
  line : Option (BitVec 2) := none
  deriving DecidableEq, Repr

/-- The BitPacker working registers acc, cnt, out (R29). -/
structure Packer where
  acc : Nat
  cnt : Nat
  out : List TransportWord
  deriving DecidableEq, Repr

/-- The machine. -/
structure State where
  /-- CFG: fixed, written by no step (R21 (a); log 1) -/
  cfg : Config
  /-- the operand registers (R23) -/
  port : Option Port
  /-- an operation is presented and not yet accepted (R171) -/
  presented : Bool
  /-- `phase` (R24) -/
  phase : Phase
  /-- the outstanding transport request (R31 (b)) -/
  outstanding : Option Request
  /-- L_PACKET, L_READ_LEN, L_EXPECT (R25; what it holds after its SEND: log 23) -/
  latch : Option Latch
  /-- DONE (R26) -/
  done : Bool
  /-- ERR (R26) -/
  err : Bool
  /-- ST_ERR, ST_INFO, ST_STAGE, ST_TF (R27) -/
  status : Status
  /-- RES_LV, RES_PACKET, RES_INT, RES_FRAME, RES_REPLY, RES_LINE (R28) -/
  results : Results
  /-- acc, cnt, out (R29; log 11) -/
  packer : Option Packer
  /-- TRACE (R31) -/
  trace : List Request
  /-- what is known of the mode-select line, `none` when nothing is (R31 (a), R239, U8; log 14) -/
  line : Option (BitVec 2)
  /-- the MODEL's own: what the world outside has yet to do (log 3) -/
  inputs : List Input
  deriving DecidableEq, Repr

/-- Why the machine stops with a fault. -/
inductive Fault where
  /-- Raised by `environment`: IDLE, nothing presented and nothing to come; R221 "It waits in IDLE for the first
  operation". Stuck, safe (log 5). -/
  | noOperationPresented
  /-- Raised by `environment`: a request is outstanding and no answer is to come; R177, U10 `stuck`. Safe (log 5). -/
  | noTransportResponse
  /-- Raised by `lineAnswered` and `xferAnswered`: a pending phase with a latch that holds no value (R25, R32, U11
  `fault`). Safe; no state that meets `State.Inv` reaches it (log 18). -/
  | latchWithoutValue
  deriving DecidableEq, Repr

/-- Why the machine gives no meaning. -/
inductive Refusal where
  /-- Raised by `exec` for an instruction without a meaning (none is left). Safe. -/
  | notModelled (mnemonic : String)
  /-- Raised by `step`: an operand word that does not fit OUT_WIDTH bits; U12 `refuse` at the well-formedness check.
  Safe (log 9). -/
  | illTypedOperand
  /-- Raised by `State.answered`: an answer that R13 does not allow for the outstanding request, or a reply word that
  does not fit CFG.W bits (U12 `refuse`). Safe (log 17). -/
  | illTypedResponse
  /-- Raised by `step`: a configuration that breaks R9; U13 `refuse`. Safe (log 10). -/
  | illFormedConfiguration
  deriving DecidableEq, Repr

/-- The status registers after reset (R32). -/
def Status.reset : Status := { code := .none, info := 0, stage := 0, tf := none }

/-- The result registers after reset: none holds a value (R28, R32). -/
def Results.empty : Results := {}

/-- The block with configuration `c` right after reset (R32, R220): IDLE, flags and status zero, everything else
without value, no request outstanding and none issued. -/
def State.resetOf (c : Config) : State where
  cfg := c
  port := none
  presented := false
  phase := .idle
  outstanding := none
  latch := none
  done := false
  err := false
  status := .reset
  results := .empty
  packer := none
  trace := []
  line := none
  inputs := []

/-- The machine right after reset. DESIGN CHOICE (log 1): of the configurations the spec leaves open, CFG_REF (R8). -/
def State.reset : State := .resetOf .cfgRef

end Sys2Proof.Machine
end

