-- ==== Sys2Proof/Machine/Flags.lean ====
section
/-! DEFINITION. The three status flags (10_state.md R26) and the numeric codes of `phase` (R24) and ST_ERR
(60_exceptions.md R191). CORE has no condition codes. -/

namespace Sys2Proof.Machine

/-- BUSY = (phase != IDLE) (R26). -/
def State.busy (s : State) : Bool := s.phase ≠ .idle

/-- The 2-bit value of `phase`; 3 is never written (R24). -/
def Phase.code : Phase → BitVec 2
  | .idle => 0
  | .linePending => 1
  | .xferPending => 2

/-- The 3-bit value of ST_ERR; 4..7 are never written (R191). -/
def ErrCode.code : ErrCode → BitVec 3
  | .none => 0
  | .rangeError => 1
  | .invalidRegisterWidth => 2
  | .transportFailure => 3

/-- Accepting an operation: it leaves the port, DONE and ERR are cleared (R26, R171, R172). -/
def State.accept (s : State) : State :=
  { s with presented := false, done := false, err := false }

/-- An operation ends `ok`: DONE set, ST_ERR, ST_INFO and ST_STAGE 0, IDLE, no request outstanding (R26, R27, R175).
ST_TF keeps its content, which is not meaningful then (R27; log 19).
The latch keeps its contents, which have no meaning in IDLE (R25; DESIGN CHOICE, log 23). -/
def State.endOk (s : State) : State :=
  { s with
    phase := .idle
    outstanding := none
    done := true
    status := { s.status with code := .none, info := 0, stage := 0 } }

end Sys2Proof.Machine
end

