-- ==== Sys2Proof/Machine/Ops.lean ====
section
/-! DEFINITION. The shared operations: packing and unpacking (40_bitpacker.md), the telemetry table (30_encoding.md
R79), writing result registers (10_state.md R28), raising an error (60_exceptions.md R196), issuing a transport
request (00_scope.md R13), and the block's reset (R220). Every operation's meaning is one line over these. -/

namespace Sys2Proof.Machine

/-! ### PACK (R102) -/

/-- acc = 0, cnt = 0, out = []: how each PACK starts (R29). -/
def Packer.cleared : Packer := { acc := 0, cnt := 0, out := [] }

/-- One source bit into the accumulator; a full accumulator is emitted (R102). -/
def Packer.takeBit (W : Nat) (p : Packer) (b : Bool) : Packer :=
  let acc := p.acc ||| b.toNat <<< p.cnt
  if p.cnt + 1 = W then { acc := 0, cnt := 0, out := p.out ++ [acc] }
  else { p with acc := acc, cnt := p.cnt + 1 }

/-- The bits of one value, least significant first, up to its declared width (R102, R104). -/
def Packer.takeValue (W : Nat) (p : Packer) (vw : Nat × Nat) : Packer :=
  (List.range vw.2).foldl (fun p b => p.takeBit W (vw.1.testBit b)) p

/-- The partial final word, appended as it stands: zero above its last stream bit (R59, R105). -/
def Packer.flush (p : Packer) : Packer :=
  if 0 < p.cnt then { p with out := p.out ++ [p.acc] } else p

/-- Word-level reversal of the completed sequence when big_endian is asked for (R54). -/
def Packer.reorder (p : Packer) (bigEndian : Bool) : Packer :=
  if bigEndian then { p with out := p.out.reverse } else p

/-- The loop of PACK, after its checks (R102). Its `out` is the packet. -/
def packLoop (values : List (Nat × Nat)) (W : Nat) (bigEndian : Bool) : Packer :=
  ((values.foldl (Packer.takeValue W) .cleared).flush).reorder bigEndian

/-! ### UNPACK (R109) and the telemetry table (R79) -/

/-- Words concatenated, most-significant word first (R109). -/
def unpackWords (words : List TransportWord) (W : Nat) : Nat :=
  words.foldl (fun x r => x <<< W ||| r) 0

/-- One (mask, right-shift) row of the telemetry table: `(X >> shift) & mask` (R79). -/
def telemetryField (X shift mask : Nat) : Nat := (X >>> shift) &&& mask

/-- The nine fields of the telemetry integer (R79, R151). -/
def frameOf (X : Nat) : Frame where
  temp := BitVec.ofNat 6 (telemetryField X 0 0x3F)
  pwr0 := BitVec.ofNat 5 (telemetryField X 6 0x1F)
  pwr1 := BitVec.ofNat 5 (telemetryField X 11 0x1F)
  pwr2 := BitVec.ofNat 5 (telemetryField X 16 0x1F)
  pwr3 := BitVec.ofNat 5 (telemetryField X 21 0x1F)
  pwr4 := BitVec.ofNat 5 (telemetryField X 26 0x1F)
  pwr5 := BitVec.ofNat 5 (telemetryField X 31 0x1F)
  pwr6 := BitVec.ofNat 5 (telemetryField X 36 0x1F)
  pwr7 := BitVec.ofNat 5 (telemetryField X 41 0x1F)

/-! ### Errors (R190 to R198) -/

/-- An error outcome: its code, its info, and for a transport failure the stage and the transport's report (R191 to
R194). -/
structure Err where
  code : ErrCode
  info : Nat
  stage : BitVec 1 := 0
  tf : Option TransportError := none
  deriving DecidableEq, Repr

/-- `RangeError(info)` (R192). -/
def Err.range (info : Nat) : Err := { code := .rangeError, info := info }

/-- `InvalidRegisterWidth(info)` (R193). -/
def Err.width (info : Nat) : Err := { code := .invalidRegisterWidth, info := info }

/-- `TransportFailure` at a stage with the transport's report e, info 0 (R174, R176, R194). -/
def Err.transport (stage : BitVec 1) (e : TransportError) : Err :=
  { code := .transportFailure, info := 0, stage := stage, tf := some e }

/-- Taking an error, the ONE entry of every error outcome (R196): ST_ERR, ST_INFO, ST_STAGE written, ST_TF only by a
transport failure, ERR set, IDLE, no request outstanding; DONE stays as acceptance left it, no result register is
written, nothing is saved and control goes nowhere. There is no return to write beside it (R198): the next operation
is accepted under the same rules. The latch keeps its contents, which have no meaning in IDLE (R25; DESIGN CHOICE,
log 23). -/
def State.raise (s : State) (e : Err) : State :=
  { s with
    phase := .idle
    outstanding := none
    err := true
    status := { code := e.code, info := e.info, stage := e.stage, tf := e.tf.or s.status.tf } }

/-! ### Results (R28) -/

/-- What an operation writes: the result registers it lists (`none`: not listed, left unchanged) and the working
registers its PACK leaves. -/
structure Effect where
  results : Results := {}
  packer : Option Packer := none
  deriving DecidableEq, Repr

/-- The registers of `w` written over `old`; a register `w` does not list keeps its content (R28). -/
def Results.write (old w : Results) : Results where
  lv := w.lv.or old.lv
  packet := w.packet.or old.packet
  int := w.int.or old.int
  frame := w.frame.or old.frame
  reply := w.reply.or old.reply
  line := w.line.or old.line

/-- Writing an effect into the registers. -/
def State.store (s : State) (e : Effect) : State :=
  { s with results := s.results.write e.results, packer := e.packer.or s.packer }

/-- An operation presented while phase != IDLE is held: not accepted, not refused, nothing changes (R171; log 15).
In IDLE it is accepted. -/
def State.accepting (s : State) (k : State → State) : Host.Outcome State Fault Refusal :=
  match s.phase with
  | .idle => .next (k s.accept)
  | .linePending => .next s
  | .xferPending => .next s

/-- A pure operation: accepted and ended in one step, with its effect or with an error that writes no result
(R28, R171, R196). -/
def State.runPure (s : State) (r : Except Err Effect) : Host.Outcome State Fault Refusal :=
  s.accepting fun a =>
    match r with
    | .ok e => (a.store e).endOk
    | .error e => a.raise e

/-! ### The transport (R13) and the block's reset (R220) -/

/-- Issuing a request: it is outstanding and recorded in TRACE (R31, R172, R173). -/
def State.issue (s : State) (r : Request) : State :=
  { s with outstanding := some r, trace := s.trace ++ [r] }

/-- The block's reset input (R32, R220, U14): every register as after reset; the outstanding request is abandoned
without a report; the history TRACE and the configuration stay; the line is whatever the transport left, and
unknown if a LineWrite was abandoned (logs 13, 14). -/
def State.applyReset (s : State) : State :=
  { State.resetOf s.cfg with
    trace := s.trace
    line := if s.phase = .linePending then none else s.line
    inputs := s.inputs }

end Sys2Proof.Machine
end

