-- ==== Sys2Proof/Machine/Operands.lean ====
section
/-! DEFINITION. How operands enter a logical value: the checks, then the fields (30_encoding.md R70 to R77, R82, R85),
and the mode table (43_mode_dispatcher.md R165). Everything is unsigned; nothing is masked into its field. -/

namespace Sys2Proof.Machine

/-- The bitwise complement within `w` bits (R10, R132). -/
def complement (w v : Nat) : Nat := (2 ^ w - 1) ^^^ v

/-- ATT_OFF(c) (R7, R74). -/
def attOffset (c : Config) (ch : Channel) : Nat := c.attOff[ch.val]

/-- PH_OFF(c) (R7, R75). -/
def phOffset (c : Config) (ch : Channel) : Nat := c.phOff[ch.val]

/-- INIT_TAG(n) for an index already checked to be at most 18 (R77). -/
def initTagOf (c : Config) (n : Nat) : Nat := c.initTag[n]?.getD 0

/-- One payload field beside a tag in a 64-bit value (R70). -/
def fieldValue (tag field offset : Nat) : LogicalValue :=
  { value := tag ||| field <<< offset, width := regWidth }

/-- ON_OFF_MASK: every 8-bit EN is legal (R122). -/
def buildOnOffMask (c : Config) (en : BitVec 8) : Except Err LogicalValue :=
  .ok (fieldValue c.tagBW0 en.toNat maskOff)

/-- ATTENUATION: RangeError 1 above 15 (R123). -/
def buildAttenuation (c : Config) (ch : Channel) (level : BitVec 8) : Except Err LogicalValue :=
  if attMax < level.toNat then .error (.range 1)
  else .ok (fieldValue c.tagBW0 level.toNat (attOffset c ch))

/-- COMMON_ATTENUATION: RangeError 3 for a code that is neither configured one (R124, D10). -/
def buildCommonAttenuation (c : Config) (level : BitVec 8) : Except Err LogicalValue :=
  if level.toNat ≠ c.catt0dB.toNat ∧ level.toNat ≠ c.catt8dB.toNat then .error (.range 3)
  else .ok (fieldValue c.tagBW0 level.toNat cattOff)

/-- PHASE: RangeError 2 above 63 (R125). -/
def buildPhase (c : Config) (ch : Channel) (level : BitVec 8) : Except Err LogicalValue :=
  if phMax < level.toNat then .error (.range 2)
  else .ok (fieldValue c.tagBW1 level.toNat (phOffset c ch))

/-- RESET: one bit at 24, tag 0 (R130). -/
def buildReset (asserted : Bool) : Except Err LogicalValue :=
  .ok (fieldValue 0 asserted.toNat resetBit)

/-- RF_ENABLE: one bit at 23, tag 0 (R131). -/
def buildRfEnable (asserted : Bool) : Except Err LogicalValue :=
  .ok (fieldValue 0 asserted.toNat rfenBit)

/-- INIT_ENTRY: RangeError 4 above 18; tag bits replace payload bits under the mask (R132, D8). -/
def buildInitEntry (c : Config) (index : BitVec 8) (payload : BitVec 64) : Except Err LogicalValue :=
  if nInit ≤ index.toNat then .error (.range 4)
  else
    .ok { value := (payload.toNat &&& complement c.initWidth c.initTagMask) ||| initTagOf c index.toNat
          width := c.initWidth }

/-- The encoder a SEND runs; a KIND that names none is RangeError 6 (R89, R172). -/
def buildCmd (c : Config) : EncCmd → Except Err LogicalValue
  | .onOffMask en => buildOnOffMask c en
  | .attenuation ch level => buildAttenuation c ch level
  | .commonAttenuation level => buildCommonAttenuation c level
  | .phase ch level => buildPhase c ch level
  | .reset a => buildReset a
  | .rfEnable a => buildRfEnable a
  | .initEntry n p => buildInitEntry c n p
  | .reserved _ => .error (.range 6)

/-- LINE_OF: INIT 0, RX 1, TX 2; the fourth code of MODE names no mode and is RangeError 5 (R81, R165, R166). -/
def lineOf (mode : BitVec 2) : Except Err (BitVec 2) :=
  if mode = 0 then .ok 0
  else if mode = 1 then .ok 1
  else if mode = 2 then .ok 2
  else .error (.range 5)

/-- The checks of PACK, all before any bit is taken: OUT_WIDTH, then the first declared width 0 (R103). -/
def packCheck (values : List (Nat × Nat)) (W : Nat) : Except Err Unit :=
  if W = 0 then .error (.width 0)
  else match values.findIdx? (fun vw => vw.2 == 0) with
    | some i => .error (.width (1 + i))
    | none => .ok ()

/-- The one check of UNPACK and DECODE_TELEMETRY (R110, R153). -/
def widthCheck (W : Nat) : Except Err Unit :=
  if W = 0 then .error (.width 0) else .ok ()

end Sys2Proof.Machine
end

