-- ==== Sys2Proof/Machine/BitPacker.lean ====
section
/-! DEFINITION. BitPacker: the meanings of PACK and UNPACK (40_bitpacker.md R100 to R114). -/

namespace Sys2Proof.Machine

/-- What PACK yields (R102, R103). -/
def packOp (values : List (Nat × Nat)) (W : Nat) (bigEndian : Bool) : Except Err Effect :=
  match packCheck values W with
  | .error e => .error e
  | .ok _ =>
    let k := packLoop values W bigEndian
    .ok { results := { packet := some k.out }, packer := some k }

/-- What UNPACK yields (R109, R110). It neither masks nor rejects a word. -/
def unpackOp (words : List TransportWord) (W : Nat) : Except Err Effect :=
  match widthCheck W with
  | .error e => .error e
  | .ok _ => .ok { results := { int := some { value := unpackWords words W, width := words.length * W } } }

/-- PACK (R102). -/
def execPack (values : List (Nat × Nat)) (W : Nat) (bigEndian : Bool) (s : State) :
    Host.Outcome State Fault Refusal :=
  s.runPure (packOp values W bigEndian)

/-- UNPACK (R109). -/
def execUnpack (words : List TransportWord) (W : Nat) (s : State) : Host.Outcome State Fault Refusal :=
  s.runPure (unpackOp words W)

end Sys2Proof.Machine
end

