-- ==== Sys2Proof/Machine/RegisterEncoder.lean ====
section
/-! DEFINITION. RegisterEncoder: the seven constructors (41_register_encoder.md R120 to R136). Each builds its logical
value, frames it into a packet and writes RES_LV and RES_PACKET; none issues a transport request. -/

namespace Sys2Proof.Machine

/-- Framing: PACK of the one value at CFG.W in the command word order (R78, R121). It cannot fail. -/
def frameLv (c : Config) (lv : LogicalValue) : Packer :=
  packLoop [(lv.value, lv.width)] c.W c.cmdBigEndian

/-- RES_LV and RES_PACKET of a built value, or the encoder's error (R120). -/
def encoderOp (c : Config) (built : Except Err LogicalValue) : Except Err Effect :=
  match built with
  | .error e => .error e
  | .ok lv =>
    let k := frameLv c lv
    .ok { results := { lv := some lv, packet := some k.out }, packer := some k }

/-- ON_OFF_MASK (R122). -/
def execOnOffMask (en : BitVec 8) (s : State) : Host.Outcome State Fault Refusal :=
  s.runPure (encoderOp s.cfg (buildOnOffMask s.cfg en))

/-- ATTENUATION (R123). -/
def execAttenuation (ch : Channel) (level : BitVec 8) (s : State) : Host.Outcome State Fault Refusal :=
  s.runPure (encoderOp s.cfg (buildAttenuation s.cfg ch level))

/-- COMMON_ATTENUATION (R124). -/
def execCommonAttenuation (level : BitVec 8) (s : State) : Host.Outcome State Fault Refusal :=
  s.runPure (encoderOp s.cfg (buildCommonAttenuation s.cfg level))

/-- PHASE (R125). -/
def execPhase (ch : Channel) (level : BitVec 8) (s : State) : Host.Outcome State Fault Refusal :=
  s.runPure (encoderOp s.cfg (buildPhase s.cfg ch level))

/-- RESET (R130): encodes a bit for the device; it does not reset CORE. -/
def execReset (asserted : Bool) (s : State) : Host.Outcome State Fault Refusal :=
  s.runPure (encoderOp s.cfg (buildReset asserted))

/-- RF_ENABLE (R131). -/
def execRfEnable (asserted : Bool) (s : State) : Host.Outcome State Fault Refusal :=
  s.runPure (encoderOp s.cfg (buildRfEnable asserted))

/-- INIT_ENTRY (R132). -/
def execInitEntry (index : BitVec 8) (payload : BitVec 64) (s : State) : Host.Outcome State Fault Refusal :=
  s.runPure (encoderOp s.cfg (buildInitEntry s.cfg index payload))

end Sys2Proof.Machine
end

