-- ==== Sys2Proof/Machine/Telemetry.lean ====
section
/-! DEFINITION. TelemetryDecoder: the meaning of DECODE_TELEMETRY (42_telemetry_decoder.md R150 to R157). -/

namespace Sys2Proof.Machine

/-- The frame of a received word sequence (R151): most-significant word first, then the nine fields. A short input
reads as zero above its last bit (R154), bits above 45 are ignored (R155). -/
def decodeWords (words : List TransportWord) (W : Nat) : Frame :=
  frameOf (unpackWords words W)

/-- What DECODE_TELEMETRY yields (R151, R153). -/
def telemetryOp (words : List TransportWord) (W : Nat) : Except Err Effect :=
  match widthCheck W with
  | .error e => .error e
  | .ok _ => .ok { results := { frame := some (decodeWords words W) } }

/-- DECODE_TELEMETRY (R151). -/
def execDecodeTelemetry (words : List TransportWord) (W : Nat) (s : State) : Host.Outcome State Fault Refusal :=
  s.runPure (telemetryOp words W)

end Sys2Proof.Machine
end

