-- ==== Sys2Proof/Machine/ModeDispatcher.lean ====
section
/-! DEFINITION. ModeDispatcher: MODE_LINE_VALUE, the acceptance of SEND, and SEND's later steps, which consume the
transport's responses (43_mode_dispatcher.md R165 to R180); the refusal of a reserved OP (30_encoding.md R89). -/

namespace Sys2Proof.Machine

/-- What MODE_LINE_VALUE yields (R166). -/
def modeLineOp (mode : BitVec 2) : Except Err Effect :=
  match lineOf mode with
  | .error e => .error e
  | .ok v => .ok { results := { line := some v } }

/-- MODE_LINE_VALUE (R166): pure, it writes no line. -/
def execModeLineValue (mode : BitVec 2) (s : State) : Host.Outcome State Fault Refusal :=
  s.runPure (modeLineOp mode)

/-- The checks of SEND and what they prepare: MODE, then KIND, then the encoder's own (R172, R197). -/
def sendPrepare (c : Config) (mode : BitVec 2) (cmd : EncCmd) : Except Err (BitVec 2 × LogicalValue) :=
  match lineOf mode with
  | .error e => .error e
  | .ok v => match buildCmd c cmd with
    | .error e => .error e
    | .ok lv => .ok (v, lv)

/-- A SEND that passed its checks: results and latch written, LineWrite issued (R172). The results stay should the
transport fail later (R174, S9; log 21). -/
def State.startSend (s : State) (v : BitVec 2) (lv : LogicalValue) (expectReply : Bool) (readLen : Nat) : State :=
  let k := frameLv s.cfg lv
  let s := s.store { results := { lv := some lv, packet := some k.out, line := some v }, packer := some k }
  let s := { s with
    latch := some { packet := k.out, readLen := readLen, expect := expectReply }
    phase := .linePending }
  s.issue (.line v)

/-- SEND step 1, acceptance (R172): an error ends it here, with no request issued. -/
def execSend (mode : BitVec 2) (cmd : EncCmd) (expectReply : Bool) (readLen : Nat) (s : State) :
    Host.Outcome State Fault Refusal :=
  s.accepting fun a =>
    match sendPrepare a.cfg mode cmd with
    | .error e => a.raise e
    | .ok (v, lv) => a.startSend v lv expectReply readLen

/-- A reserved OP: RangeError 6, no request issued, IDLE (R89, R192). -/
def execReservedOp (s : State) : Host.Outcome State Fault Refusal :=
  s.runPure (.error (.range 6))

/-- The value an outstanding LineWrite carries. -/
def Request.lineValue : Request → Option (BitVec 2)
  | .line v => some v
  | .xfer _ _ => none

/-- SEND step 2 and 2': the LineWrite is answered (R173, R174). -/
def State.lineAnswered (s : State) : Response → Host.Outcome State Fault Refusal
  | .lineOk => match s.latch with
    | some l =>
      let s := { s with phase := .xferPending, line := s.outstanding.bind Request.lineValue }
      .next (s.issue (.xfer l.packet l.readLen))
    | none => .fault .latchWithoutValue
  | .lineFail e => .next ({ s with line := none }.raise (.transport 0 e))
  | .xferOk _ => .refused .illTypedResponse
  | .xferFail _ => .refused .illTypedResponse

/-- A reply captured, decoded when the latch says so, and the SEND ended (R175). The length is not checked. -/
def State.captureReply (s : State) (reply : List TransportWord) (expect : Bool) : State :=
  let frame := if expect then some (decodeWords reply s.cfg.W) else none
  (s.store { results := { reply := some reply, frame := frame } }).endOk

/-- SEND step 3 and 3': the Exchange is answered (R175, R176). A reply word that does not fit CFG.W bits is ill
typed (U12). -/
def State.xferAnswered (s : State) : Response → Host.Outcome State Fault Refusal
  | .xferOk reply => match s.latch with
    | some l =>
      if reply.all (· < 2 ^ s.cfg.W) then .next (s.captureReply reply l.expect)
      else .refused .illTypedResponse
    | none => .fault .latchWithoutValue
  | .xferFail e => .next (s.raise (.transport 1 e))
  | .lineOk => .refused .illTypedResponse
  | .lineFail _ => .refused .illTypedResponse

end Sys2Proof.Machine
end

