-- ==== Sys2Proof/Machine/Dispatch.lean ====
section
/-! DEFINITION. One arm per operation of 30_encoding.md R88. -/

namespace Sys2Proof.Machine

/-- The meaning of an operation. -/
def exec (i : Instr) (s : State) : Host.Outcome State Fault Refusal :=
  match i with
  -- BitPacker
  | .pack values outWidth bigEndian => Sys2Proof.Machine.execPack values outWidth bigEndian s
  | .unpack words outWidth => Sys2Proof.Machine.execUnpack words outWidth s
  -- RegisterEncoder
  | .onOffMask en => Sys2Proof.Machine.execOnOffMask en s
  | .attenuation chan level => Sys2Proof.Machine.execAttenuation chan level s
  | .commonAttenuation level => Sys2Proof.Machine.execCommonAttenuation level s
  | .phase chan level => Sys2Proof.Machine.execPhase chan level s
  | .reset asserted => Sys2Proof.Machine.execReset asserted s
  | .rfEnable asserted => Sys2Proof.Machine.execRfEnable asserted s
  | .initEntry index payload => Sys2Proof.Machine.execInitEntry index payload s
  -- TelemetryDecoder
  | .decodeTelemetry words outWidth => Sys2Proof.Machine.execDecodeTelemetry words outWidth s
  -- ModeDispatcher
  | .modeLineValue mode => Sys2Proof.Machine.execModeLineValue mode s
  | .send mode cmd expectReply readLen => Sys2Proof.Machine.execSend mode cmd expectReply readLen s

end Sys2Proof.Machine
end

