-- ==== Sys2Proof/Machine/Environment.lean ====
section
/-! DEFINITION. What the world outside does to CORE (00_scope.md R13, 10_state.md R23, R32, 43_mode_dispatcher.md
R171 to R177, 70_reset_and_hazards.md R220): the caller's writes and presentations, the transport's answers, the reset
input. Which of them come, and in which order, is the environment's choice: a claim quantifies over `State.inputs`
(U7; log 3). -/

namespace Sys2Proof.Machine

/-- Position `id` of TRACE is the outstanding request's: at most one is outstanding, the last one issued (R31 (b);
log 4). -/
def State.isOutstanding (s : State) (id : Nat) : Bool :=
  s.outstanding.isSome && id + 1 == s.trace.length

/-- A late response, to a request that a reset abandoned, is discarded (R32, U14); what an abandoned request does to
the line is not known (log 14). -/
def State.discard (s : State) : State := { s with line := none }

/-- The transport answers request `id` (R173 to R176). -/
def State.answered (s : State) (id : Nat) (r : Response) : Host.Outcome State Fault Refusal :=
  if s.isOutstanding id then
    match s.phase with
    | .idle => .next s.discard
    | .linePending => s.lineAnswered r
    | .xferPending => s.xferAnswered r
  else .next s.discard

/-- The caller writes the operand registers (R23, R66; log 7). -/
def State.drive (s : State) (p : Port) : State := { s with port := some p }

/-- The caller writes the operand registers and presents the operation; it waits there until it is accepted
(R171; log 7). -/
def State.present (s : State) (p : Port) : State := { s with port := some p, presented := true }

/-- The reset input comes next: it may be applied at any time (R220), so also before a presented operation is
accepted. -/
def State.resetNext (s : State) : Bool :=
  match s.inputs with
  | .reset :: _ => true
  | _ => false

/-- The operation CORE can accept now: one is presented, phase = IDLE (R171), and no reset comes first (R220). -/
def State.acceptable (s : State) : Option Port :=
  match s.phase with
  | .idle => if s.presented && !s.resetNext then s.port else none
  | .linePending => none
  | .xferPending => none

/-- One event of the world outside. With none to come CORE waits for ever: in IDLE for an operation (R221), or for
the answer that does not come (R177). -/
def environment (s : State) : Host.Outcome State Fault Refusal :=
  match s.inputs with
  | [] => match s.phase with
    | .idle => .fault .noOperationPresented
    | .linePending => .fault .noTransportResponse
    | .xferPending => .fault .noTransportResponse
  | i :: rest =>
    let s := { s with inputs := rest }
    match i with
    | .drive p => .next (s.drive p)
    | .present p => .next (s.present p)
    | .answer id r => s.answered id r
    | .reset => .next s.applyReset

end Sys2Proof.Machine
end

