-- ==== Sys2Proof/Machine/Step.lean ====
section
/-! DEFINITION. One step (00_scope.md R6). CORE's own move comes first: an operation presented in IDLE is accepted,
unless the reset input comes then (R220). Otherwise the next event of the world outside happens, which is CORE's
consumption of a transport response where it is one. CORE has no instruction memory (20_memory.md R50): the operation
is read from the operand registers, and a "program" is the caller's sequence of presentations in `State.inputs` (log
3). -/

namespace Sys2Proof.Machine

/-- Accepting what the operand registers hold (R66, R88, R89): a reserved OP is CORE's own error, an ill-typed word is
refused (U12). -/
def acceptPort (p : Port) (s : State) : Host.Outcome State Fault Refusal :=
  match decode p with
  | .ok i => if i.wellFormed then exec i s else .refused .illTypedOperand
  | .error (.reservedOp _) => execReservedOp s

/-- One step of the machine. No rule gives an ill-formed configuration a meaning (U13). -/
def step (s : State) : Host.Outcome State Fault Refusal :=
  if s.cfg.wellFormed then
    match s.acceptable with
    | some p => acceptPort p s
    | none => environment s
  else .refused .illFormedConfiguration

/-- `s` with the operation a table word stands for presented at the port and CORE in IDLE to accept it, so that the
next step runs exactly it: a reset input that would come first is left out (log 8). -/
def State.withFetchWord (s : State) (nbits w : Nat) : State :=
  { s with
    port := some (Port.ofTableWord nbits w)
    presented := true
    phase := .idle
    inputs := s.inputs.dropWhile (· == .reset) }

end Sys2Proof.Machine
end

