-- ==== Sys2Proof/Machine/CallerPort.lean ====
section
/-! DEFINITION. What the caller reads of CORE (10_state.md R26 to R28): the flags and status registers as numbers, and
the result registers. A read of a register that holds no value is a fault of the caller, never a zero (R28, U11). -/

namespace Sys2Proof.Machine

/-- What is wrong with a caller's read. It is a fault of the observation (U11): the machine does not stop, and no step
has this outcome (log 12). -/
inductive CallerFault where
  /-- the register holds no value: "reading it is a fault of the caller, not a zero" (R28, R32) -/
  | noValue
  deriving DecidableEq, Repr

/-- A read of a register that may hold no value. -/
def readRegister {α : Type} : Option α → Except CallerFault α
  | some a => .ok a
  | none => .error .noValue

/-- RES_LV. -/
def State.readLv (s : State) : Except CallerFault LogicalValue := readRegister s.results.lv
/-- RES_PACKET. -/
def State.readPacket (s : State) : Except CallerFault (List TransportWord) := readRegister s.results.packet
/-- RES_INT. -/
def State.readInt (s : State) : Except CallerFault LogicalValue := readRegister s.results.int
/-- RES_FRAME. -/
def State.readFrame (s : State) : Except CallerFault Frame := readRegister s.results.frame
/-- RES_REPLY. -/
def State.readReply (s : State) : Except CallerFault (List TransportWord) := readRegister s.results.reply
/-- RES_LINE. -/
def State.readLine (s : State) : Except CallerFault (BitVec 2) := readRegister s.results.line
/-- ST_ERR, 3 bits (R191). -/
def State.readStErr (s : State) : BitVec 3 := s.status.code.code
/-- ST_TF, of which a value is there only after a transport failure (R27). -/
def State.readStTf (s : State) : Except CallerFault TransportError := readRegister s.status.tf
/-- `phase`, 2 bits (R24). -/
def State.readPhase (s : State) : BitVec 2 := s.phase.code

end Sys2Proof.Machine
end

