-- ==== Sys2Proof/Machine/Pseudo.lean ====
section
/-! DEFINITION. The pseudo-operations of 30_encoding.md R91: expansions the caller performs. CORE has no operation for
them and does not sequence them. -/

namespace Sys2Proof.Machine

/-- RESET_PULSE: assert, then deassert, as two separate commands (R91, R230). DESIGN CHOICE
(log 22): R91 names no EXPECT_REPLY and no READ_LEN; one pair is taken and given to both. -/
def resetPulse (mode : BitVec 2) (expectReply : Bool) (readLen : Nat) : List Instr :=
  [.send mode (.reset true) expectReply readLen, .send mode (.reset false) expectReply readLen]

/-- INIT_TABLE: the 19 entries of a caller-supplied table in rising index order (R91, D8). DESIGN CHOICE (log 22):
R91 names no EXPECT_REPLY and no READ_LEN; one pair is taken and given to all nineteen. -/
def initTable (mode : BitVec 2) (tbl : Vector (BitVec 64) 19) (expectReply : Bool) (readLen : Nat) : List Instr :=
  (List.finRange 19).map fun n =>
    .send mode (.initEntry (BitVec.ofNat 8 n.val) tbl[n.val]) expectReply readLen

/-- ENCODE_COMMAND: the encoder operation a kind names; a KIND that names none has no such operation (R88, R91). -/
def encodeCommand : EncCmd → Option Instr
  | .onOffMask en => some (.onOffMask en)
  | .attenuation c l => some (.attenuation c l)
  | .commonAttenuation l => some (.commonAttenuation l)
  | .phase c l => some (.phase c l)
  | .reset a => some (.reset a)
  | .rfEnable a => some (.rfEnable a)
  | .initEntry n p => some (.initEntry n p)
  | .reserved _ => none

end Sys2Proof.Machine
end

