-- ==== Sys2Proof/Safety.lean ====
section
/-! DEFINITION. What claims use: the stream and packet in the rules' closed form, the words for how an operation ends,
and the state invariant with one clause per group of registers. -/

namespace Sys2Proof

/-! ### Which registers an operation lists (R28, R29) -/

/-- SEND, the one operation that is not pure (R170). -/
def Instr.isSend : Instr → Bool
  | .send _ _ _ _ => true
  | _ => false

/-- The seven encoders (R88: ops 0x2..0x8). -/
def Instr.isEncoder : Instr → Bool
  | .onOffMask _ => true
  | .attenuation _ _ => true
  | .commonAttenuation _ => true
  | .phase _ _ => true
  | .reset _ => true
  | .rfEnable _ => true
  | .initEntry _ _ => true
  | _ => false

/-- PACK. -/
def Instr.isPack : Instr → Bool
  | .pack _ _ _ => true
  | _ => false

/-- UNPACK. -/
def Instr.isUnpack : Instr → Bool
  | .unpack _ _ => true
  | _ => false

/-- DECODE_TELEMETRY. -/
def Instr.isTelemetry : Instr → Bool
  | .decodeTelemetry _ _ => true
  | _ => false

/-- MODE_LINE_VALUE. -/
def Instr.isModeLine : Instr → Bool
  | .modeLineValue _ => true
  | _ => false

/-- Two ports agree on the operands of the encoder with this op code (R23, R88). -/
def EncoderOperandsAgree (encoder : Nat) (p q : Port) : Prop :=
  match encoder with
  | 0x2 => p.en = q.en
  | 0x3 => p.chan = q.chan ∧ p.level = q.level
  | 0x4 => p.level = q.level
  | 0x5 => p.chan = q.chan ∧ p.level = q.level
  | 0x6 => p.asserted = q.asserted
  | 0x7 => p.asserted = q.asserted
  | 0x8 => p.index = q.index ∧ p.payload = q.payload
  | _ => True

/-- Two ports hold the same OP and agree on the registers R23 says that operation uses; of SEND these are its own and
those of the encoder KIND names (R170). A reserved OP uses none. -/
def UsedOperandsAgree (p q : Port) : Prop :=
  p.op = q.op ∧
  match p.op.toNat with
  | 0x0 => p.values = q.values ∧ p.outWidth = q.outWidth ∧ p.bigEndian = q.bigEndian
  | 0x1 => p.words = q.words ∧ p.outWidth = q.outWidth
  | 0x9 => p.words = q.words ∧ p.outWidth = q.outWidth
  | 0xA => p.mode = q.mode
  | 0xB => p.mode = q.mode ∧ p.kind = q.kind ∧ p.expectReply = q.expectReply ∧ p.readLen = q.readLen ∧
      EncoderOperandsAgree p.kind.toNat p q
  | op => EncoderOperandsAgree op p q

/-- A command whose value has format BW0 (R74). -/
def EncCmd.isBW0 : EncCmd → Bool
  | .onOffMask _ => true
  | .attenuation _ _ => true
  | .commonAttenuation _ => true
  | .phase _ _ => false
  | .reset _ => false
  | .rfEnable _ => false
  | .initEntry _ _ => false
  | .reserved _ => false

end Sys2Proof

namespace Sys2Proof.Machine

/-! ### The stream of a PACK, as the rules describe it (R101, R108) -/

/-- T, the number of stream bits (R101). -/
def streamLen : List (Nat × Nat) → Nat
  | [] => 0
  | vw :: rest => vw.2 + streamLen rest

/-- S, the stream integer: the sum of the values, each taken modulo 2 to its declared width and placed above the
values before it (R101). -/
def streamInt : List (Nat × Nat) → Nat
  | [] => 0
  | vw :: rest => vw.1 % 2 ^ vw.2 + streamInt rest * 2 ^ vw.2

/-- ceil(T / W), the number of words of a packet (R87, R108). -/
def wordCount (T W : Nat) : Nat := (T + W - 1) / W

/-- Digit k of a stream in base 2^W: `(S >> (k*W)) mod 2^W` (R108). -/
def digit (S W k : Nat) : TransportWord := S / 2 ^ (k * W) % 2 ^ W

/-- The first n words of a stream, lowest first: what R108 calls `le`. -/
def digitsLE (S W n : Nat) : List TransportWord := (List.range n).map (digit S W)

/-- A packet in closed form (R108): `le`, or `le` from its last word to its first. -/
def packetOf (S T W : Nat) (bigEndian : Bool) : List TransportWord :=
  if bigEndian then (digitsLE S W (wordCount T W)).reverse else digitsLE S W (wordCount T W)

/-- The packet of a command's logical value (R78, R121). -/
def commandPacket (c : Config) (lv : LogicalValue) : List TransportWord :=
  packetOf lv.value lv.width c.W c.cmdBigEndian

/-- The integer UNPACK makes of words, as a sum: word k has weight 2^(W * (n-1-k)) (R109). -/
def wordsInt (W : Nat) : List TransportWord → Nat
  | [] => 0
  | r :: rest => r * 2 ^ (W * rest.length) + wordsInt W rest

/-- Bit i of that integer, read off the words (R80): bit `i mod W` of word `n-1 - floor(i/W)`, 0 beyond word 0. -/
def replyBit (W : Nat) (words : List TransportWord) (i : Nat) : Bool :=
  match words.reverse[i / W]? with
  | some r => r.testBit (i % W)
  | none => false

/-- PACK's checks pass (R103). -/
def WidthsPositive (values : List (Nat × Nat)) : Prop := ∀ vw ∈ values, 1 ≤ vw.2

/-! ### Telemetry -/

/-- The nine fields of a frame read off the telemetry integer X (R79). -/
structure FrameReads (X : Nat) (f : Frame) : Prop where
  temp : f.temp.toNat = X % 2 ^ 6
  pwr0 : f.pwr0.toNat = X / 2 ^ 6 % 2 ^ 5
  pwr1 : f.pwr1.toNat = X / 2 ^ 11 % 2 ^ 5
  pwr2 : f.pwr2.toNat = X / 2 ^ 16 % 2 ^ 5
  pwr3 : f.pwr3.toNat = X / 2 ^ 21 % 2 ^ 5
  pwr4 : f.pwr4.toNat = X / 2 ^ 26 % 2 ^ 5
  pwr5 : f.pwr5.toNat = X / 2 ^ 31 % 2 ^ 5
  pwr6 : f.pwr6.toNat = X / 2 ^ 36 % 2 ^ 5
  pwr7 : f.pwr7.toNat = X / 2 ^ 41 % 2 ^ 5

/-- The nine fields of a frame, bit by bit, from the used bits 0..45 (R79). -/
structure FrameBits (bit : Nat → Bool) (f : Frame) : Prop where
  temp : ∀ j < 6, f.temp.getLsbD j = bit j
  pwr0 : ∀ j < 5, f.pwr0.getLsbD j = bit (6 + j)
  pwr1 : ∀ j < 5, f.pwr1.getLsbD j = bit (11 + j)
  pwr2 : ∀ j < 5, f.pwr2.getLsbD j = bit (16 + j)
  pwr3 : ∀ j < 5, f.pwr3.getLsbD j = bit (21 + j)
  pwr4 : ∀ j < 5, f.pwr4.getLsbD j = bit (26 + j)
  pwr5 : ∀ j < 5, f.pwr5.getLsbD j = bit (31 + j)
  pwr6 : ∀ j < 5, f.pwr6.getLsbD j = bit (36 + j)
  pwr7 : ∀ j < 5, f.pwr7.getLsbD j = bit (41 + j)

/-- The used bits of a frame as one integer (R156). -/
def frameInt (f : Frame) : Nat :=
  f.temp.toNat + f.pwr0.toNat * 2 ^ 6 + f.pwr1.toNat * 2 ^ 11 + f.pwr2.toNat * 2 ^ 16 + f.pwr3.toNat * 2 ^ 21 +
    f.pwr4.toNat * 2 ^ 26 + f.pwr5.toNat * 2 ^ 31 + f.pwr6.toNat * 2 ^ 36 + f.pwr7.toNat * 2 ^ 41

/-! ### How an operation ends -/

/-- The machine goes on. -/
def Continues (o : Host.Outcome State Fault Refusal) : Prop := ∃ t, o = .next t

/-- Every word fits in W bits (R11). -/
def WordsBelow (W : Nat) (words : List TransportWord) : Prop := ∀ r ∈ words, r < 2 ^ W

/-- What no pure operation writes: the configuration, the operand registers, the latch, TRACE, what is known of the
line, what is to come, and ST_TF. -/
structure Untouched (s t : State) : Prop where
  cfg : t.cfg = s.cfg
  port : t.port = s.port
  latch : t.latch = s.latch
  trace : t.trace = s.trace
  line : t.line = s.line
  inputs : t.inputs = s.inputs
  tf : t.status.tf = s.status.tf

/-- The operation ended `ok` in one step: it left the port, DONE set, ERR clear, status 0, IDLE, no request
outstanding, nothing else but results and working registers written (R26, R27). -/
structure EndedOk (s t : State) : Prop extends Untouched s t where
  presented : t.presented = false
  phase : t.phase = .idle
  outstanding : t.outstanding = none
  done : t.done = true
  err : t.err = false
  code : t.status.code = .none
  info : t.status.info = 0
  stage : t.status.stage = 0

/-- The operation ended in a validation error: ERR set, DONE clear, the code and the info, stage 0, IDLE, no result
and no working register written, no request issued (R196). -/
structure EndedErr (s t : State) (code : ErrCode) (info : Nat) : Prop extends Untouched s t where
  presented : t.presented = false
  phase : t.phase = .idle
  outstanding : t.outstanding = none
  done : t.done = false
  err : t.err = true
  code : t.status.code = code
  info : t.status.info = info
  stage : t.status.stage = 0
  results : t.results = s.results
  packer : t.packer = s.packer

/-- An encoder ended `ok` with this logical value: RES_LV and its packet, no other result (R120, R121). -/
def EncodedTo (s t : State) (lv : LogicalValue) : Prop :=
  EndedOk s t ∧ t.results = { s.results with lv := some lv, packet := some (commandPacket s.cfg lv) }

/-- Every register as after reset (R32), the configuration, TRACE, the line and what is to come apart. -/
structure IsReset (t : State) : Prop where
  port : t.port = none
  presented : t.presented = false
  phase : t.phase = .idle
  busy : t.busy = false
  outstanding : t.outstanding = none
  latch : t.latch = none
  done : t.done = false
  err : t.err = false
  code : t.status.code = .none
  info : t.status.info = 0
  stage : t.status.stage = 0
  tf : t.status.tf = none
  lv : t.results.lv = none
  packet : t.results.packet = none
  int : t.results.int = none
  frame : t.results.frame = none
  reply : t.results.reply = none
  line : t.results.line = none
  packer : t.packer = none

/-! ### Encoder commands -/

/-- The operands an encoder accepts (R85). -/
def CmdLegal (c : Config) : EncCmd → Prop
  | .onOffMask _ => True
  | .attenuation _ level => level.toNat ≤ 15
  | .commonAttenuation level => level.toNat = c.catt0dB.toNat ∨ level.toNat = c.catt8dB.toNat
  | .phase _ level => level.toNat ≤ 63
  | .reset _ => True
  | .rfEnable _ => True
  | .initEntry index _ => index.toNat ≤ 18
  | .reserved _ => False

/-- ST_INFO of the RangeError an illegal encoder command gives (R192); 0 where none is illegal. -/
def cmdErrInfo : EncCmd → Nat
  | .onOffMask _ => 0
  | .attenuation _ _ => 1
  | .commonAttenuation _ => 3
  | .phase _ _ => 2
  | .reset _ => 0
  | .rfEnable _ => 0
  | .initEntry _ _ => 4
  | .reserved _ => 6

/-- `v` is the logical value an encoder gives for a command: some accepted encoder operation ends `ok` with it. -/
def EncodesTo (c : Config) (cmd : EncCmd) (v : Nat) : Prop :=
  ∃ i s t lv, encodeCommand cmd = some i ∧ s.cfg = c ∧ s.phase = .idle ∧ exec i s = .next t ∧ t.done = true ∧
    t.results.lv = some lv ∧ lv.value = v

/-- The tag constant of the format a command's value has (R72, R77). -/
def cmdTag (c : Config) : EncCmd → Nat
  | .onOffMask _ => c.tagBW0
  | .attenuation _ _ => c.tagBW0
  | .commonAttenuation _ => c.tagBW0
  | .phase _ _ => c.tagBW1
  | .reset _ => 0
  | .rfEnable _ => 0
  | .initEntry index _ => initTagOf c index.toNat
  | .reserved _ => 0

/-- Offset, width and content of the one payload field a command carries (R74 to R77). -/
def cmdField (c : Config) : EncCmd → Nat × Nat × Nat
  | .onOffMask en => (34, 8, en.toNat)
  | .attenuation ch level => (c.attOff[ch.val], 4, level.toNat)
  | .commonAttenuation level => (32, 2, level.toNat)
  | .phase ch level => (c.phOff[ch.val], 6, level.toNat)
  | .reset a => (24, 1, a.toNat)
  | .rfEnable a => (23, 1, a.toNat)
  | .initEntry _ payload => (0, 64, payload.toNat)
  | .reserved _ => (0, 0, 0)

/-- Two BW0 commands write different fields: the mask, the common attenuation, or the attenuation of different
channels (R74). -/
def DistinctBW0Fields : EncCmd → EncCmd → Prop
  | .onOffMask _, .attenuation _ _ => True
  | .onOffMask _, .commonAttenuation _ => True
  | .attenuation _ _, .onOffMask _ => True
  | .attenuation _ _, .commonAttenuation _ => True
  | .attenuation a _, .attenuation b _ => a ≠ b
  | .commonAttenuation _, .onOffMask _ => True
  | .commonAttenuation _, .attenuation _ _ => True
  | _, _ => False

/-! ### The world outside -/

/-- The answers R13 allows to a request, a reply's words fitting CFG.W bits (R11, U12). -/
def Response.Allowed (W : Nat) : Request → Response → Prop
  | .line _, .lineOk => True
  | .line _, .lineFail _ => True
  | .xfer _ _, .xferOk reply => WordsBelow W reply
  | .xfer _ _, .xferFail _ => True
  | .line _, .xferOk _ => False
  | .line _, .xferFail _ => False
  | .xfer _ _, .lineOk => False
  | .xfer _ _, .lineFail _ => False

/-- What the caller reads of a register: its value, or a fault of the caller where it holds none (R28, U11). -/
def ReadsAs {α : Type} (register : Option α) (read : Except CallerFault α) : Prop :=
  (register = none → read = .error .noValue) ∧ ∀ a, register = some a → read = .ok a

/-! ### The invariant -/

/-- A logical value's invariant: "width > 0 and value fits within width bits" (R11). -/
def LogicalValue.Valid (lv : LogicalValue) : Prop := 0 < lv.width ∧ lv.value < 2 ^ lv.width

/-- An event of TRACE carries a mode-line value CORE produces (R81) or words of W bits (R60). -/
def Request.Valid (W : Nat) : Request → Prop
  | .line v => v ≠ 3#2
  | .xfer words _ => WordsBelow W words

/-- The sequencing law on TRACE: every Xfer comes directly after a Line (R178). -/
def WellSequenced (events : List Request) : Prop :=
  ∀ k words n, events[k]? = some (.xfer words n) → 0 < k ∧ ∃ v, events[k - 1]? = some (.line v)

/-- The sequencer registers agree: a request is outstanding exactly when phase != IDLE, it is the last event of TRACE,
and it is the one the latch and RES_LINE, RES_PACKET name; a latched packet is of CFG.W-bit words (R24, R25, R31 (b),
R172, R173). -/
def SequencerOk (s : State) : Prop :=
  match s.phase with
  | .idle => s.outstanding = none
  | .linePending => ∃ l v, s.latch = some l ∧ s.outstanding = some (.line v) ∧
      s.trace.getLast? = some (.line v) ∧ s.results.line = some v ∧ s.results.packet = some l.packet ∧
      WordsBelow s.cfg.W l.packet
  | .xferPending => ∃ l, s.latch = some l ∧ s.outstanding = some (.xfer l.packet l.readLen) ∧
      s.trace.getLast? = some (.xfer l.packet l.readLen) ∧ s.results.packet = some l.packet

/-- The flags: DONE and ERR never both, both clear while BUSY, and in IDLE ERR says what ST_ERR says (R26, R27,
R198). -/
def FlagsOk (s : State) : Prop :=
  ¬ (s.done = true ∧ s.err = true) ∧
  (s.busy = true → s.done = false ∧ s.err = false) ∧
  (s.busy = false → (s.err = true ↔ s.status.code ≠ .none))

/-- The status registers hold a combination of code, info, stage and report that some rule writes (R191 to R194). -/
def Status.Valid (st : Status) : Prop :=
  match st.code with
  | .none => st.info = 0 ∧ st.stage = 0
  | .rangeError => 1 ≤ st.info ∧ st.info ≤ 6 ∧ st.stage = 0
  | .invalidRegisterWidth => st.stage = 0
  | .transportFailure => st.info = 0 ∧ st.tf ≠ none

/-- The result registers that hold a value hold one of their type (R28). -/
def Results.Valid (W : Nat) (r : Results) : Prop :=
  (∀ lv ∈ r.lv, lv.Valid) ∧
  (∀ x ∈ r.int, x.value < 2 ^ x.width) ∧
  (∀ reply ∈ r.reply, WordsBelow W reply) ∧
  (∀ v ∈ r.line, v ≠ 3#2)

/-- What holds at reset and every step keeps. -/
structure State.Inv (s : State) : Prop where
  config : s.cfg.WF
  sequencer : SequencerOk s
  flags : FlagsOk s
  status : s.status.Valid
  results : s.results.Valid s.cfg.W
  sequenced : WellSequenced s.trace
  events : ∀ e ∈ s.trace, e.Valid s.cfg.W

end Sys2Proof.Machine
end

