-- ==== Sys2Proof/Certificates/Slice0/Obligations.lean ====
section
/-! DEFINITION. The statements about CORE, one `def` each, from the spec's numbered rules. A statement about `exec`
takes a state in IDLE, where an operation is accepted (R171); every configuration, every content of the registers and
every script of the world outside is allowed. That the world outside is a script in the state, that an answer names its
request by its place in TRACE, and that waiting with nothing to come is a named stop, are the model's (logs 3, 4, 5);
every statement with `inputs` rests on them for its form. -/

open Sys2Proof Sys2Proof.Machine

/-! ### Reading an operation -/

/-- R88, R92: no operand bit is dropped between an operation and the registers that present it. -/
def Obligations.DecodeOfEncodeIsTheInstruction : Prop :=
  ∀ i : Instr, i.wellFormed = true → decode (encode i) = .ok i

/-- R23, R88, R170: an operation is its op code and the operands R23 says it uses: two ports that agree on those
decode alike, whatever the other registers hold; and the encoding of what a port decodes to has its OP and decodes to
the same. -/
def Obligations.DecodeReadsOnlyTheUsedOperands : Prop :=
  (∀ p q : Port, UsedOperandsAgree p q → decode p = decode q) ∧
  (∀ (p : Port) (i : Instr), decode p = .ok i → (encode i).op = p.op ∧ decode (encode i) = .ok i)

/-- R88, R89, R92: the op code of each row, with operands zero, and the four reserved codes. -/
def Obligations.TableWordsDecodeToTheirRows : Prop :=
  decodeTableWord 8 0x0 = some (.pack [] 0 false) ∧
  decodeTableWord 8 0x1 = some (.unpack [] 0) ∧
  decodeTableWord 8 0x2 = some (.onOffMask 0) ∧
  decodeTableWord 8 0x3 = some (.attenuation 0 0) ∧
  decodeTableWord 8 0x4 = some (.commonAttenuation 0) ∧
  decodeTableWord 8 0x5 = some (.phase 0 0) ∧
  decodeTableWord 8 0x6 = some (.reset false) ∧
  decodeTableWord 8 0x7 = some (.rfEnable false) ∧
  decodeTableWord 8 0x8 = some (.initEntry 0 0) ∧
  decodeTableWord 8 0x9 = some (.decodeTelemetry [] 0) ∧
  decodeTableWord 8 0xA = some (.modeLineValue 0) ∧
  decodeTableWord 8 0xB = some (.send 0 (.reserved 0) false 0) ∧
  ∀ w ∈ [0xC, 0xD, 0xE, 0xF], decodeTableWord 8 w = none

/-- A step in IDLE with a presented, well-typed operation runs exactly that operation, unless the reset input comes
first (R6, R66, R171, R220). -/
def Obligations.StepRunsThePresentedOperation : Prop :=
  ∀ (s : State) (p : Port) (i : Instr), s.cfg.WF → s.phase = .idle → s.presented = true → s.resetNext = false →
    s.port = some p → decode p = .ok i → i.wellFormed = true → step s = exec i s

/-- R89: a reserved OP ends a step with RangeError 6, and so does SEND with a KIND that names no encoder (MODE, which
is checked first, being one of the three). -/
def Obligations.ReservedCodesAreRangeErrorSix : Prop :=
  (∀ (s : State) (p : Port), s.cfg.WF → s.phase = .idle → s.presented = true → s.resetNext = false →
    s.port = some p → 12 ≤ p.op.toNat → ∃ t, step s = .next t ∧ EndedErr s t .rangeError 6) ∧
  (∀ (s : State) (p : Port), s.cfg.WF → s.phase = .idle → s.presented = true → s.resetNext = false →
    s.port = some p → p.op = 0xB#4 → p.mode ≠ 3#2 → (p.kind.toNat < 2 ∨ 8 < p.kind.toNat) →
    ∃ t, step s = .next t ∧ EndedErr s t .rangeError 6)

/-- U12, D26, U13: what the model refuses, and by which name: an operand word of UNPACK or DECODE_TELEMETRY outside
OUT_WIDTH bits where OUT_WIDTH is not 0, of no other operation anything, and an ill-formed configuration
(logs 9, 10). -/
def Obligations.IllTypedInputIsRefused : Prop :=
  (∀ (s : State) (p : Port) (i : Instr), s.cfg.WF → s.phase = .idle → s.presented = true → s.resetNext = false →
    s.port = some p → decode p = .ok i → i.wellFormed = false → step s = .refused .illTypedOperand) ∧
  (∀ (words : List TransportWord) (W : Nat),
    ((Instr.unpack words W).wellFormed = false ↔ W ≠ 0 ∧ ¬ WordsBelow W words) ∧
    ((Instr.decodeTelemetry words W).wellFormed = false ↔ W ≠ 0 ∧ ¬ WordsBelow W words)) ∧
  (∀ (p : Port) (i : Instr), decode p = .ok i → i.isUnpack = false → i.isTelemetry = false → i.wellFormed = true) ∧
  (∀ s : State, ¬ s.cfg.WF → step s = .refused .illFormedConfiguration)

/-! ### The invariant and reset -/

/-- The block meets the invariant right after reset, with every well-formed configuration. -/
def Obligations.ResetMeetsTheInvariant : Prop :=
  (∀ c : Config, c.WF → (State.resetOf c).Inv) ∧ State.reset.Inv

/-- Every step keeps the invariant, from every state that meets it, whatever the world outside does. -/
def Obligations.EveryStepKeepsTheInvariant : Prop :=
  ∀ s t : State, s.Inv → step s = .next t → t.Inv

/-- R32, R220: what every register holds after reset, and that the reset input gives the same at any time, in IDLE
also before a presented operation is accepted, and while a request is outstanding: no report, no request, the
configuration kept. That TRACE survives it, what is then known of the line, that an operation held at the port is
gone, and the place of the input in the script are the model's (logs 3, 6, 13, 14). -/
def Obligations.ResetLeavesEveryRegisterAsStated : Prop :=
  (∀ c : Config, IsReset (State.resetOf c) ∧ (State.resetOf c).cfg = c ∧ (State.resetOf c).trace = []) ∧
  (∀ (s : State) (rest : List Input), s.cfg.WF → s.inputs = .reset :: rest →
    ∃ t, step s = .next t ∧ IsReset t ∧ t.cfg = s.cfg ∧ t.trace = s.trace ∧ t.inputs = rest ∧
      (s.phase ≠ .linePending → t.line = s.line))

/-- R32, U14: an answer to a request that is no longer outstanding is discarded: no register of CORE changes. How an
answer names its request, and what is then known of the line, are the model's (logs 4, 14). -/
def Obligations.LateAnswerIsDiscarded : Prop :=
  ∀ (s : State) (id : Nat) (r : Response) (rest : List Input), s.cfg.WF → s.acceptable = none →
    s.inputs = .answer id r :: rest → (s.outstanding = none ∨ id + 1 ≠ s.trace.length) →
    step s = .next { s with inputs := rest, line := none }

/-- R21 (a): the configuration is fixed for the life of the block. -/
def Obligations.NoStepWritesTheConfiguration : Prop :=
  ∀ s t : State, step s = .next t → t.cfg = s.cfg

/-- From a state that meets the invariant, a step that does not go on is one of: nothing presented and nothing to come
(R221), no answer to come (R177), an ill-typed operand word (U12), an answer to the outstanding request that R13 and
U12 do not allow. The latch is never read without a value. The stops and their names are the model's (logs 5, 9, 17,
18). -/
def Obligations.OnlyNamedStopsOccur : Prop :=
  ∀ s : State, s.Inv →
    Continues (step s) ∨
    (step s = .fault .noOperationPresented ∧ s.phase = .idle ∧ s.acceptable = none ∧ s.inputs = []) ∨
    (step s = .fault .noTransportResponse ∧ s.busy = true ∧ s.inputs = []) ∨
    (step s = .refused .illTypedOperand ∧ ∃ p i, s.acceptable = some p ∧ decode p = .ok i ∧ i.wellFormed = false) ∨
    (step s = .refused .illTypedResponse ∧ ∃ q id r rest, s.outstanding = some q ∧ s.trace.length = id + 1 ∧
      s.inputs = .answer id r :: rest ∧ ¬ r.Allowed s.cfg.W q)

/-- R13, U12: an answer to the outstanding request is refused as ill typed exactly when it is of the other request's
kind or holds a word that does not fit CFG.W bits, and every other one is consumed, a reply of any length among them
(R175). The refusal's name is the model's (log 17). -/
def Obligations.AnswersNotAllowedAreRefused : Prop :=
  ∀ (s : State) (q : Request) (id : Nat) (r : Response) (rest : List Input), s.Inv → s.outstanding = some q →
    s.trace.length = id + 1 → s.inputs = .answer id r :: rest →
    (¬ r.Allowed s.cfg.W q → step s = .refused .illTypedResponse) ∧ (r.Allowed s.cfg.W q → Continues (step s))

/-- R23, R171: what the caller's writes leave: the operand registers as written, and the operation presented if it
presents one; nothing else changes, also while a SEND is in progress. That a second presentation takes the place of
one still held is the model's reading (log 7), the place of the write in the script its form (log 3). -/
def Obligations.CallerWritesThePort : Prop :=
  ∀ (s : State) (p : Port) (rest : List Input), s.cfg.WF → s.acceptable = none →
    (s.inputs = .drive p :: rest → step s = .next { s with port := some p, inputs := rest }) ∧
    (s.inputs = .present p :: rest → step s = .next { s with port := some p, presented := true, inputs := rest })

/-! ### BitPacker -/

/-- R108 (the spec's own inference from R102): PACK in closed form, word by word, in both word orders, and the
invariants of its loop. -/
def Obligations.PackYieldsTheDigitsOfTheStream : Prop :=
  (∀ (values : List (Nat × Nat)) (W : Nat) (be : Bool) (s : State), s.phase = .idle → 1 ≤ W →
    WidthsPositive values →
    ∃ t words, exec (.pack values W be) s = .next t ∧ EndedOk s t ∧
      t.results = { s.results with packet := some words } ∧
      words.length = (streamLen values + W - 1) / W ∧
      ∀ k < words.length,
        words[if be then words.length - 1 - k else k]? = some (streamInt values / 2 ^ (k * W) % 2 ^ W)) ∧
  (∀ (values : List (Nat × Nat)) (W : Nat), 1 ≤ W →
    let p := values.foldl (Packer.takeValue W) Packer.cleared
    p.cnt < W ∧ p.acc < 2 ^ p.cnt ∧ p.out.length = streamLen values / W ∧ p.cnt = streamLen values % W)

/-- R103: OUT_WIDTH 0 first, then the smallest index whose declared width is 0; no word is produced. -/
def Obligations.PackRefusesZeroWidths : Prop :=
  (∀ (values : List (Nat × Nat)) (be : Bool) (s : State), s.phase = .idle →
    ∃ t, exec (.pack values 0 be) s = .next t ∧ EndedErr s t .invalidRegisterWidth 0) ∧
  (∀ (values : List (Nat × Nat)) (W i v : Nat) (be : Bool) (s : State), s.phase = .idle → 1 ≤ W →
    values[i]? = some (v, 0) → (∀ j < i, ∀ vw, values[j]? = some vw → vw.2 ≠ 0) →
    ∃ t, exec (.pack values W be) s = .next t ∧ EndedErr s t .invalidRegisterWidth (1 + i))

/-- R109, R110: UNPACK's integer and width, for words of W bits, and its one refusal. -/
def Obligations.UnpackConcatenatesTheWords : Prop :=
  (∀ (words : List TransportWord) (W : Nat) (s : State), s.phase = .idle → 1 ≤ W → WordsBelow W words →
    ∃ t, exec (.unpack words W) s = .next t ∧ EndedOk s t ∧ t.packer = s.packer ∧
      t.results = { s.results with int := some { value := wordsInt W words, width := words.length * W } }) ∧
  (∀ (words : List TransportWord) (s : State), s.phase = .idle →
    ∃ t, exec (.unpack words 0) s = .next t ∧ EndedErr s t .invalidRegisterWidth 0)

/-- R111 (the spec's own inference from R108, R109): UNPACK inverts the big-endian packet, also when the last word
is partial; of the little-endian packet it gives the digits in reversed order. -/
def Obligations.UnpackInvertsBigEndianPack : Prop :=
  ∀ (values : List (Nat × Nat)) (W : Nat) (s : State), s.phase = .idle → 1 ≤ W → WidthsPositive values →
    (∃ t p u, exec (.pack values W true) s = .next t ∧ t.results.packet = some p ∧
      exec (.unpack p W) t = .next u ∧
      u.results.int = some { value := streamInt values, width := wordCount (streamLen values) W * W } ∧
      (streamLen values % W = 0 → wordCount (streamLen values) W * W = streamLen values)) ∧
    (∃ t p u x, exec (.pack values W false) s = .next t ∧ t.results.packet = some p ∧
      exec (.unpack p W) t = .next u ∧
      u.results.int = some { value := x, width := wordCount (streamLen values) W * W } ∧
      x < 2 ^ (wordCount (streamLen values) W * W) ∧
      ∀ k < wordCount (streamLen values) W,
        digit x W k = digit (streamInt values) W (wordCount (streamLen values) W - 1 - k))

/-- R112: the two word orders are each other's reversal. -/
def Obligations.BigEndianPacketIsTheReversal : Prop :=
  ∀ (values : List (Nat × Nat)) (W : Nat) (s : State), s.phase = .idle → 1 ≤ W → WidthsPositive values →
    ∃ t u le be, exec (.pack values W false) s = .next t ∧ t.results.packet = some le ∧
      exec (.pack values W true) s = .next u ∧ u.results.packet = some be ∧
      be = le.reverse ∧ be.length = le.length ∧ be.reverse = le

/-- R113 (the spec's own inference from R108): the number of words, their range, and that the packet depends on the
values only through (S, T). -/
def Obligations.PacketDependsOnStreamAndLengthOnly : Prop :=
  ∀ (values values' : List (Nat × Nat)) (W : Nat) (be : Bool) (s s' : State), s.phase = .idle → s'.phase = .idle →
    1 ≤ W → WidthsPositive values → WidthsPositive values' →
    streamInt values = streamInt values' → streamLen values = streamLen values' →
    ∃ t t' p, exec (.pack values W be) s = .next t ∧ exec (.pack values' W be) s' = .next t' ∧
      t.results.packet = some p ∧ t'.results.packet = some p ∧
      p.length = (streamLen values + W - 1) / W ∧ WordsBelow W p

/-! ### RegisterEncoder -/

/-- R122: every 8-bit EN is legal; flag c is bit 34 + c. -/
def Obligations.OnOffMaskPlacesEightFlags : Prop :=
  ∀ (en : BitVec 8) (s : State), s.cfg.WF → s.phase = .idle →
    ∃ t v, exec (.onOffMask en) s = .next t ∧ EncodedTo s t { value := v, width := 64 } ∧
      v = s.cfg.tagBW0 ||| en.toNat * 2 ^ 34 ∧ ∀ c < 8, v.testBit (34 + c) = en.getLsbD c

/-- R123: level 0..15 into the channel's 4-bit field, RangeError 1 above. -/
def Obligations.AttenuationFieldOrRangeErrorOne : Prop :=
  ∀ (ch : Channel) (level : BitVec 8) (s : State), s.cfg.WF → s.phase = .idle →
    (level.toNat ≤ 15 → ∃ t, exec (.attenuation ch level) s = .next t ∧
      EncodedTo s t { value := s.cfg.tagBW0 ||| level.toNat * 2 ^ s.cfg.attOff[ch.val], width := 64 }) ∧
    (15 < level.toNat → ∃ t, exec (.attenuation ch level) s = .next t ∧ EndedErr s t .rangeError 1)

/-- R124: the two configured codes, RangeError 3 for every other, 0b10 among them. -/
def Obligations.CommonAttenuationCodeOrRangeErrorThree : Prop :=
  ∀ (code : BitVec 8) (s : State), s.cfg.WF → s.phase = .idle →
    (code.toNat = s.cfg.catt0dB.toNat ∨ code.toNat = s.cfg.catt8dB.toNat →
      code.toNat ≠ 2 ∧ ∃ t, exec (.commonAttenuation code) s = .next t ∧
        EncodedTo s t { value := s.cfg.tagBW0 ||| code.toNat * 2 ^ 32, width := 64 }) ∧
    (code.toNat ≠ s.cfg.catt0dB.toNat → code.toNat ≠ s.cfg.catt8dB.toNat →
      ∃ t, exec (.commonAttenuation code) s = .next t ∧ EndedErr s t .rangeError 3)

/-- R125: level 0..63 into the channel's 6-bit field, RangeError 2 above. -/
def Obligations.PhaseFieldOrRangeErrorTwo : Prop :=
  ∀ (ch : Channel) (level : BitVec 8) (s : State), s.cfg.WF → s.phase = .idle →
    (level.toNat ≤ 63 → ∃ t, exec (.phase ch level) s = .next t ∧
      EncodedTo s t { value := s.cfg.tagBW1 ||| level.toNat * 2 ^ s.cfg.phOff[ch.val], width := 64 }) ∧
    (63 < level.toNat → ∃ t, exec (.phase ch level) s = .next t ∧ EndedErr s t .rangeError 2)

/-- R130, R131: one bit in a value with tag 0; neither command carries the other's bit. -/
def Obligations.ResetAndRfEnableSetOneBit : Prop :=
  ∀ (a : Bool) (s : State), s.cfg.WF → s.phase = .idle →
    (∃ t, exec (.reset a) s = .next t ∧ EncodedTo s t { value := if a then 0x1000000 else 0, width := 64 }) ∧
    (∃ t, exec (.rfEnable a) s = .next t ∧ EncodedTo s t { value := if a then 0x800000 else 0, width := 64 })

/-- R132, R77: under the mask the tag of entry n, elsewhere the payload and zeros; RangeError 4 above 18. -/
def Obligations.InitEntryTagsThePayload : Prop :=
  ∀ (index : BitVec 8) (payload : BitVec 64) (s : State), s.cfg.WF → s.phase = .idle →
    (∀ h : index.toNat < 19, ∃ t v, exec (.initEntry index payload) s = .next t ∧
      EncodedTo s t { value := v, width := s.cfg.initWidth } ∧ v < 2 ^ s.cfg.initWidth ∧
      ∀ b, v.testBit b = if s.cfg.initTagMask.testBit b then s.cfg.initTag[index.toNat].testBit b
        else payload.toNat.testBit b) ∧
    (19 ≤ index.toNat → ∃ t, exec (.initEntry index payload) s = .next t ∧ EndedErr s t .rangeError 4)

/-- R134: the or of BW0 values that write different fields gives back every field by masking and the tag above them;
the same for PHASE values of different channels. -/
def Obligations.FieldsOfOneRegisterAreDisjoint : Prop :=
  (∀ (c : Config) (cmds : List EncCmd) (vs : List Nat), c.WF → cmds ≠ [] →
    (∀ cmd ∈ cmds, cmd.isBW0 = true ∧ CmdLegal c cmd) → cmds.Pairwise DistinctBW0Fields →
    List.Forall₂ (EncodesTo c) cmds vs →
    (∀ cmd ∈ cmds, vs.foldr (· ||| ·) 0 / 2 ^ (cmdField c cmd).1 % 2 ^ (cmdField c cmd).2.1 = (cmdField c cmd).2.2) ∧
    vs.foldr (· ||| ·) 0 / 2 ^ 42 = c.tagBW0 / 2 ^ 42) ∧
  (∀ (c : Config) (a b : Channel) (la lb : BitVec 8) (va vb : Nat), c.WF → a ≠ b →
    la.toNat ≤ 63 → lb.toNat ≤ 63 → EncodesTo c (.phase a la) va → EncodesTo c (.phase b lb) vb →
    (va ||| vb) / 2 ^ c.phOff[a.val] % 2 ^ 6 = la.toNat ∧ (va ||| vb) / 2 ^ c.phOff[b.val] % 2 ^ 6 = lb.toNat ∧
    (va ||| vb) / 2 ^ 48 = c.tagBW1 / 2 ^ 48)

/-- R136 (the spec's own inference from R122 to R132): outside its tag a value has bits only in its command's own
field, and there the operand. -/
def Obligations.EachValueCarriesOneField : Prop :=
  ∀ (c : Config) (cmd : EncCmd) (v : Nat), c.WF → EncodesTo c cmd v →
    CmdLegal c cmd ∧
    ∀ b, v.testBit b = true → (cmdTag c cmd).testBit b = true ∨
      ((cmdField c cmd).1 ≤ b ∧ b < (cmdField c cmd).1 + (cmdField c cmd).2.1 ∧
        (cmdField c cmd).2.2.testBit (b - (cmdField c cmd).1) = true)

/-- R84 (the spec's own inference from R74 to R76): values of different operations can be equal; within one
operation the operands can be told from the value, level 0 of the channels apart. -/
def Obligations.ValuesTellOperandsOnlyWithinOneOperation : Prop :=
  (∃ v, EncodesTo .cfgRef (.attenuation 6 1) v ∧ EncodesTo .cfgRef (.reset true) v ∧ v = 0x0000000001000000) ∧
  (∀ (c : Config) (ch : Channel) (v : Nat), c.WF → EncodesTo c (.attenuation ch 0) v → v = c.tagBW0) ∧
  (∀ (c : Config) (ch : Channel) (v : Nat), c.WF → EncodesTo c (.phase ch 0) v → v = c.tagBW1) ∧
  (∀ (c : Config) (v : Nat), c.WF → c.catt0dB = 0 → EncodesTo c (.commonAttenuation 0) v → v = c.tagBW0) ∧
  (∀ (c : Config) (v : Nat), c.WF → EncodesTo c (.onOffMask 0) v → v = c.tagBW0) ∧
  (∀ (c : Config) (v : Nat), EncodesTo c (.reset false) v ∨ EncodesTo c (.rfEnable false) v → v = 0) ∧
  (∀ (c : Config) (a b : BitVec 8) (v : Nat), c.WF → EncodesTo c (.onOffMask a) v → EncodesTo c (.onOffMask b) v →
    a = b) ∧
  (∀ (c : Config) (a b : BitVec 8) (v : Nat), c.WF → EncodesTo c (.commonAttenuation a) v →
    EncodesTo c (.commonAttenuation b) v → a = b) ∧
  (∀ (c : Config) (a b : Bool) (v : Nat), (EncodesTo c (.reset a) v ∧ EncodesTo c (.reset b) v) ∨
    (EncodesTo c (.rfEnable a) v ∧ EncodesTo c (.rfEnable b) v) → a = b) ∧
  (∀ (c : Config) (x y : Channel) (a b : BitVec 8) (v : Nat), c.WF → EncodesTo c (.attenuation x a) v →
    EncodesTo c (.attenuation y b) v → a = b ∧ (a ≠ 0 → x = y)) ∧
  (∀ (c : Config) (x y : Channel) (a b : BitVec 8) (v : Nat), c.WF → EncodesTo c (.phase x a) v →
    EncodesTo c (.phase y b) v → a = b ∧ (a ≠ 0 → x = y))

/-- R135: the same command twice gives the same logical value and the same packet, whatever the block did before. -/
def Obligations.EncodingTwiceGivesTheSamePacket : Prop :=
  ∀ (i : Instr) (s s' t t' : State), i.isEncoder = true → s.cfg = s'.cfg → s.phase = .idle → s'.phase = .idle →
    exec i s = .next t → exec i s' = .next t' →
    t.done = t'.done ∧ t.status.code = t'.status.code ∧ t.status.info = t'.status.info ∧
    (t.done = true → t.results.lv = t'.results.lv ∧ t.results.packet = t'.results.packet ∧
      t.results.lv ≠ none ∧ t.results.packet ≠ none)

/-! ### TelemetryDecoder -/

/-- R151, R153: the nine fields of the reassembled integer, and the one refusal. -/
def Obligations.DecodeTelemetryReadsTheNineFields : Prop :=
  (∀ (words : List TransportWord) (W : Nat) (s : State), s.phase = .idle → 1 ≤ W → WordsBelow W words →
    ∃ t f, exec (.decodeTelemetry words W) s = .next t ∧ EndedOk s t ∧ t.packer = s.packer ∧
      t.results = { s.results with frame := some f } ∧ FrameReads (wordsInt W words) f) ∧
  (∀ (words : List TransportWord) (s : State), s.phase = .idle →
    ∃ t, exec (.decodeTelemetry words 0) s = .next t ∧ EndedErr s t .invalidRegisterWidth 0)

/-- R154, with R80's formula, which the spec infers from R55, R79: each bit of each field is a bit of one word, at
every word width, and zero beyond the words there are. -/
def Obligations.TelemetryBitsComeFromTheWords : Prop :=
  ∀ (words : List TransportWord) (W : Nat) (s : State), s.phase = .idle → 1 ≤ W → WordsBelow W words →
    ∃ t f, exec (.decodeTelemetry words W) s = .next t ∧ t.results.frame = some f ∧ FrameBits (replyBit W words) f

/-- R155: bits 46 and above of the reply affect no output. -/
def Obligations.TelemetryIgnoresBitsAboveFortyFive : Prop :=
  ∀ (words words' : List TransportWord) (W W' : Nat) (s s' : State), s.phase = .idle → s'.phase = .idle →
    1 ≤ W → 1 ≤ W' → WordsBelow W words → WordsBelow W' words' →
    (∀ i < 46, replyBit W words i = replyBit W' words' i) →
    ∃ t t' f, exec (.decodeTelemetry words W) s = .next t ∧ exec (.decodeTelemetry words' W') s' = .next t' ∧
      t.results.frame = some f ∧ t'.results.frame = some f

/-- R156 (the spec's own inference from R151, R79): the inverse on the used bits: every frame comes back, whatever
is added at or above bit 46. -/
def Obligations.EveryFrameCanBeSentAndDecoded : Prop :=
  ∀ (f : Frame) (high W n : Nat) (s : State), s.phase = .idle → 1 ≤ W →
    frameInt f + high * 2 ^ 46 < 2 ^ (n * W) →
    ∃ t, exec (.decodeTelemetry (digitsLE (frameInt f + high * 2 ^ 46) W n).reverse W) s = .next t ∧ EndedOk s t ∧
      t.results = { s.results with frame := some f }

/-! ### ModeDispatcher -/

/-- R166: the line value is the mode's number; MODE = 3 is RangeError 5; no LineWrite. -/
def Obligations.ModeLineValueIsTheModeNumber : Prop :=
  ∀ (mode : BitVec 2) (s : State), s.phase = .idle →
    (mode ≠ 3#2 → ∃ t, exec (.modeLineValue mode) s = .next t ∧ EndedOk s t ∧ t.packer = s.packer ∧
      t.results = { s.results with line := some mode }) ∧
    (mode = 3#2 → ∃ t, exec (.modeLineValue mode) s = .next t ∧ EndedErr s t .rangeError 5)

/-- R172: the acceptance of SEND. Legal: the results of the encoder it runs, RES_LINE, the latch, one LineWrite
issued, LINE_PENDING, nothing else written but the working registers. Otherwise the first failing check, MODE, KIND,
the encoder's own, with no request. -/
def Obligations.SendAcceptanceChecksThenWritesTheLine : Prop :=
  (∀ (mode : BitVec 2) (cmd : EncCmd) (er : Bool) (n : Nat) (s : State), s.cfg.WF → s.phase = .idle →
    mode ≠ 3#2 → CmdLegal s.cfg cmd →
    ∃ i u lv packet, encodeCommand cmd = some i ∧ exec i s = .next u ∧ u.done = true ∧
      u.results.lv = some lv ∧ u.results.packet = some packet ∧
      exec (.send mode cmd er n) s = .next { s with
        presented := false, done := false, err := false, phase := .linePending
        results := { s.results with lv := some lv, packet := some packet, line := some mode }
        latch := some { packet := packet, readLen := n, expect := er }
        outstanding := some (.line mode), trace := s.trace ++ [.line mode], packer := u.packer }) ∧
  (∀ (cmd : EncCmd) (er : Bool) (n : Nat) (s : State), s.phase = .idle →
    ∃ t, exec (.send 3#2 cmd er n) s = .next t ∧ EndedErr s t .rangeError 5) ∧
  (∀ (mode : BitVec 2) (cmd : EncCmd) (er : Bool) (n : Nat) (s : State), s.cfg.WF → s.phase = .idle →
    mode ≠ 3#2 → ¬ CmdLegal s.cfg cmd →
    ∃ t, exec (.send mode cmd er n) s = .next t ∧ EndedErr s t .rangeError (cmdErrInfo cmd))

/-- R88, R170, R172: SEND runs the encoder whose op code KIND holds, on the operands that encoder reads when OP is that
code: the one is the other, and what a presented SEND writes and how its checks end is what that operation, accepted in
its place, writes and how it ends. -/
def Obligations.SendRunsTheEncoderKindNames : Prop :=
  (∀ (p : Port) (i : Instr), encodeCommand (decodeKind p) = some i ↔
    2 ≤ p.kind.toNat ∧ p.kind.toNat ≤ 8 ∧ decode { p with op := p.kind } = .ok i) ∧
  (∀ (p : Port) (i : Instr), encodeCommand (decodeKind p) = some i → i.opCode = p.kind ∧ i.isEncoder = true) ∧
  (∀ (s : State) (p : Port), s.cfg.WF → s.phase = .idle → s.presented = true → s.resetNext = false →
    s.port = some p → p.op = 0xB#4 → p.mode ≠ 3#2 → 2 ≤ p.kind.toNat → p.kind.toNat ≤ 8 →
    ∃ i u t, decode { p with op := p.kind } = .ok i ∧ exec i s = .next u ∧ step s = .next t ∧
      (u.err = false → t.results = { u.results with line := some p.mode } ∧ t.phase = .linePending ∧
        t.outstanding = some (.line p.mode) ∧ t.trace = s.trace ++ [.line p.mode]) ∧
      (u.err = true → EndedErr s t .rangeError u.status.info))

/-- R173: the LineWrite answered `ok`: the latched packet is exchanged, XFER_PENDING, nothing else written (what is
known of the line apart, which is another statement's). -/
def Obligations.LineOkIssuesTheExchange : Prop :=
  ∀ (s : State) (l : Latch) (q : Request) (id : Nat) (rest : List Input), s.cfg.WF → s.phase = .linePending →
    s.latch = some l → s.outstanding = some q → s.trace.length = id + 1 → s.inputs = .answer id .lineOk :: rest →
    ∃ line, step s = .next { s with
      phase := .xferPending, outstanding := some (.xfer l.packet l.readLen)
      trace := s.trace ++ [.xfer l.packet l.readLen], line := line, inputs := rest }

/-- R174: the LineWrite answered `fail(e)`: TransportFailure at stage 0 with e unchanged, IDLE, no Exchange, the
results as step 1 left them. That the latch keeps its contents is the model's (log 23); that RES_LV, RES_PACKET and
RES_LINE do is R174 (log 21). -/
def Obligations.LineFailureAbortsTheCommand : Prop :=
  ∀ (s : State) (q : Request) (e : TransportError) (id : Nat) (rest : List Input), s.cfg.WF →
    s.phase = .linePending → s.outstanding = some q → s.trace.length = id + 1 →
    s.inputs = .answer id (.lineFail e) :: rest →
    ∃ line, step s = .next { s with
      phase := .idle, outstanding := none, err := true, line := line, inputs := rest
      status := { code := .transportFailure, info := 0, stage := 0, tf := some e } }

/-- R175: the Exchange answered `ok(reply)`: the reply captured, decoded at CFG.W when one was expected, DONE, status
0, IDLE. No length is checked. That the latch keeps its contents is the model's (log 23). -/
def Obligations.ExchangeOkCapturesAndDecodesTheReply : Prop :=
  ∀ (s : State) (l : Latch) (q : Request) (reply : List TransportWord) (id : Nat) (rest : List Input), s.cfg.WF →
    s.phase = .xferPending → s.latch = some l → s.outstanding = some q → s.trace.length = id + 1 →
    s.inputs = .answer id (.xferOk reply) :: rest → WordsBelow s.cfg.W reply →
    ∃ f, FrameReads (wordsInt s.cfg.W reply) f ∧
      step s = .next { s with
        phase := .idle, outstanding := none, done := true, inputs := rest
        status := { s.status with code := .none, info := 0, stage := 0 }
        results := { s.results with
          reply := some reply, frame := if l.expect then some f else s.results.frame } }

/-- R176: the Exchange answered `fail(e)`: TransportFailure at stage 1 with e unchanged, IDLE, no retry, no result
written, the line as it is. That the latch keeps its contents is the model's (log 23). -/
def Obligations.ExchangeFailureIsReportedAtStageOne : Prop :=
  ∀ (s : State) (q : Request) (e : TransportError) (id : Nat) (rest : List Input), s.cfg.WF →
    s.phase = .xferPending → s.outstanding = some q → s.trace.length = id + 1 →
    s.inputs = .answer id (.xferFail e) :: rest →
    step s = .next { s with
      phase := .idle, outstanding := none, err := true, inputs := rest
      status := { code := .transportFailure, info := 0, stage := 1, tf := some e } }

/-- A whole SEND (R170, R179): accepted, the LineWrite answered `ok`, the Exchange answered `ok`: in three steps the
block is back in IDLE with DONE, exactly one Line and then one Xfer of the command's packet were issued, RES_LV and
RES_PACKET are those the command's encoder gives, and the reply is captured and, if expected, decoded. -/
def Obligations.SendCompletesInThreeSteps : Prop :=
  ∀ (s : State) (p : Port) (mode : BitVec 2) (cmd : EncCmd) (er : Bool) (n : Nat) (reply : List TransportWord)
    (rest : List Input), s.cfg.WF → s.phase = .idle → s.presented = true → s.port = some p →
    decode p = .ok (.send mode cmd er n) → mode ≠ 3#2 → CmdLegal s.cfg cmd → WordsBelow s.cfg.W reply →
    s.inputs = .answer s.trace.length .lineOk :: .answer (s.trace.length + 1) (.xferOk reply) :: rest →
    ∃ i u lv a b t, encodeCommand cmd = some i ∧ exec i s = .next u ∧ EncodedTo s u lv ∧
      step s = .next a ∧ step a = .next b ∧ step b = .next t ∧
      a.phase = .linePending ∧ b.phase = .xferPending ∧
      t.phase = .idle ∧ t.done = true ∧ t.err = false ∧ t.presented = false ∧ t.port = s.port ∧ t.inputs = rest ∧
      t.trace = s.trace ++ [.line mode, .xfer (commandPacket s.cfg lv) n] ∧
      t.results.lv = some lv ∧ t.results.packet = some (commandPacket s.cfg lv) ∧
      t.results.line = some mode ∧ t.results.reply = some reply ∧ t.results.int = s.results.int ∧
      (er = true → ∃ f, t.results.frame = some f ∧ FrameReads (wordsInt s.cfg.W reply) f) ∧
      (er = false → t.results.frame = s.results.frame)

/-- R239 (the spec's own inference from R174, R176), R31 (a): a LineWrite answered `ok` leaves the line at the mode
that SEND set, and an Exchange that fails keeps it; after a LineWrite that failed nothing is known of it. The field
that says so is the model's (log 14). -/
def Obligations.WhatIsKnownOfTheLine : Prop :=
  ∀ (s t : State) (id : Nat) (rest : List Input), s.Inv → s.busy = true → s.trace.length = id + 1 →
    step s = .next t →
    (∀ v, s.outstanding = some (.line v) → s.inputs = .answer id .lineOk :: rest → t.line = some v) ∧
    (∀ e, s.inputs = .answer id (.lineFail e) :: rest → t.line = none) ∧
    (∀ e, s.inputs = .answer id (.xferFail e) :: rest → t.line = s.line)

/-- R171: an operation presented while BUSY is held: its meaning changes nothing, an answer leaves it at the port, and
it is accepted in IDLE; a pure operation leaves phase = IDLE. (That `exec` answers the unchanged state is log 15.) -/
def Obligations.OperationIsHeldWhileBusy : Prop :=
  (∀ (i : Instr) (s : State), s.phase ≠ .idle → exec i s = .next s) ∧
  (∀ (s t : State) (id : Nat) (r : Response) (rest : List Input), s.phase ≠ .idle →
    s.inputs = .answer id r :: rest → step s = .next t → t.port = s.port ∧ t.presented = s.presented) ∧
  (∀ (s : State) (p : Port) (i : Instr), s.cfg.WF → s.phase = .idle → s.presented = true → s.resetNext = false →
    s.port = some p → decode p = .ok i → i.wellFormed = true →
    ∃ t, step s = .next t ∧ exec i s = .next t ∧ t.presented = false) ∧
  (∀ (i : Instr) (s t : State), i.isSend = false → s.phase = .idle → exec i s = .next t → t.phase = .idle)

/-- R177: with no answer to come no step is enabled, and nothing but an answer to the outstanding request or the reset
input takes a SEND out of its phase. (The stuck state's name is log 5.) -/
def Obligations.SendWaitsForItsResponse : Prop :=
  (∀ s : State, s.cfg.WF → s.phase ≠ .idle → s.inputs = [] → step s = .fault .noTransportResponse) ∧
  (∀ (s t : State) (i : Input) (rest : List Input), s.phase ≠ .idle → s.inputs = i :: rest → i ≠ .reset →
    (∀ id r, i = .answer id r → s.outstanding = none ∨ id + 1 ≠ s.trace.length) → step s = .next t →
    t.phase = s.phase ∧ t.busy = true ∧ t.outstanding = s.outstanding ∧ t.latch = s.latch ∧ t.trace = s.trace ∧
      t.results = s.results ∧ t.status = s.status ∧ t.done = s.done ∧ t.err = s.err)

/-- R221: in IDLE with no operation to accept CORE does nothing of its own: with nothing to come it waits, right after
reset too, and the caller's writes and late answers change no register of it but the port. That waiting is the fault
noOperationPresented is the model's (log 5), that the latch keeps its contents too (log 23). -/
def Obligations.IdleWaitsForAnOperation : Prop :=
  (∀ s : State, s.cfg.WF → s.phase = .idle → s.acceptable = none → s.inputs = [] →
    step s = .fault .noOperationPresented) ∧
  (∀ c : Config, c.WF → step (State.resetOf c) = .fault .noOperationPresented) ∧
  (∀ (s t : State) (i : Input) (rest : List Input), s.phase = .idle → s.acceptable = none → s.inputs = i :: rest →
    i ≠ .reset → step s = .next t →
    t.phase = .idle ∧ t.trace = s.trace ∧ t.outstanding = s.outstanding ∧ t.latch = s.latch ∧ t.done = s.done ∧
      t.err = s.err ∧ t.status = s.status ∧ t.results = s.results ∧ t.packer = s.packer)

/-- R180, R178, R170 (R178, R180 the spec's own inferences from R171 to R176): the only movements of phase, and the
only ways TRACE grows: a Line when a presented SEND is accepted, an Xfer when its LineWrite was answered `ok`. Phase
returns to IDLE, TRACE kept, only by an answer to the outstanding request that ends the SEND or by the reset input;
that this one keeps TRACE is the model's (log 13), as is that an answer names its request (log 4). -/
def Obligations.PhaseAndTraceMoveOnlyBySendStepsAndReset : Prop :=
  ∀ s t : State, step s = .next t →
    (t.trace = s.trace ∧ t.phase = s.phase) ∨
    (t.trace = s.trace ∧ t.phase = .idle ∧ ∃ i rest, s.inputs = i :: rest ∧
      (i = .reset ∨
        (∃ id answer, i = .answer id answer ∧ s.outstanding ≠ none ∧ id + 1 = s.trace.length ∧
          ((s.phase = .linePending ∧ ∃ e, answer = .lineFail e) ∨
            (s.phase = .xferPending ∧ ((∃ reply, answer = .xferOk reply) ∨ ∃ e, answer = .xferFail e)))))) ∨
    (s.phase = .idle ∧ t.phase = .linePending ∧
      ∃ p v cmd er n, s.acceptable = some p ∧ decode p = .ok (.send v cmd er n) ∧ v ≠ 3#2 ∧ CmdLegal s.cfg cmd ∧
        t.trace = s.trace ++ [.line v] ∧ t.outstanding = some (.line v)) ∨
    (s.phase = .linePending ∧ t.phase = .xferPending ∧ ∃ l, s.latch = some l ∧
      (∃ id rest, s.inputs = .answer id .lineOk :: rest ∧ s.outstanding ≠ none ∧ id + 1 = s.trace.length) ∧
      t.trace = s.trace ++ [.xfer l.packet l.readLen] ∧ t.outstanding = some (.xfer l.packet l.readLen))

/-- R66: operands are sampled at acceptance: while a SEND is in progress what the operand registers hold, and whether
an operation waits there, changes nothing else in what an answer does. -/
def Obligations.OperandChangesDoNotReachASendInProgress : Prop :=
  ∀ (s t : State) (port : Option Port) (presented : Bool) (id : Nat) (r : Response) (rest : List Input),
    s.phase ≠ .idle → s.inputs = .answer id r :: rest → step s = .next t →
    step { s with port := port, presented := presented } = .next { t with port := port, presented := presented }

/-! ### Rules over all operations -/

/-- No operand, no configuration and no earlier state stops an operation: in IDLE it ends or starts (R14), and while a
SEND is in progress `exec` answers with the operation held, which is the model's form of R171 (log 15). -/
def Obligations.EveryOperationContinues : Prop :=
  ∀ (i : Instr) (s : State), Continues (exec i s)

/-- R28, R29, R62, R170, and log 19 for ST_TF: the frame of every operation: a result register it does not list, and
everything no operation writes, is as before; only SEND touches the latch, the phase, TRACE and the outstanding
request (that the latch keeps its contents in IDLE: log 23). -/
def Obligations.OperationsWriteOnlyWhatTheyList : Prop :=
  ∀ (i : Instr) (s t : State), s.phase = .idle → exec i s = .next t →
    t.cfg = s.cfg ∧ t.port = s.port ∧ t.line = s.line ∧ t.inputs = s.inputs ∧ t.status.tf = s.status.tf ∧
    t.results.reply = s.results.reply ∧
    (i.isUnpack = false → t.results.int = s.results.int) ∧
    (i.isTelemetry = false → t.results.frame = s.results.frame) ∧
    (i.isModeLine = false → i.isSend = false → t.results.line = s.results.line) ∧
    (i.isEncoder = false → i.isSend = false → t.results.lv = s.results.lv) ∧
    (i.isPack = false → i.isEncoder = false → i.isSend = false →
      t.results.packet = s.results.packet ∧ t.packer = s.packer) ∧
    (i.isSend = false → t.latch = s.latch ∧ t.phase = .idle ∧ t.trace = s.trace ∧ t.outstanding = none) ∧
    (t.done = true ↔ t.phase = .idle ∧ t.err = false) ∧ (t.err = true → t.phase = .idle)

/-- R28, U11: the results a step that accepts no operation may write: RES_REPLY and RES_FRAME, by the end of an
Exchange; and what the caller reads of each result register and of ST_TF: its value, or a fault of the caller where it
holds none. -/
def Obligations.OtherStepsKeepTheResults : Prop :=
  (∀ (s t : State) (i : Input) (rest : List Input), s.acceptable = none → s.inputs = i :: rest → i ≠ .reset →
    step s = .next t →
    t.results.lv = s.results.lv ∧ t.results.packet = s.results.packet ∧ t.results.int = s.results.int ∧
    t.results.line = s.results.line ∧
    (t.results = s.results ∨
      s.phase = .xferPending ∧ t.phase = .idle ∧ t.done = true ∧ ∃ id reply, i = .answer id (.xferOk reply) ∧
        t.results.reply = some reply)) ∧
  (∀ s : State, ReadsAs s.results.lv s.readLv ∧ ReadsAs s.results.packet s.readPacket ∧
    ReadsAs s.results.int s.readInt ∧ ReadsAs s.results.frame s.readFrame ∧ ReadsAs s.results.reply s.readReply ∧
    ReadsAs s.results.line s.readLine ∧ ReadsAs s.status.tf s.readStTf)

/-- R24, R26, R191: the numbers the caller reads of `phase` and ST_ERR, none of them a code that is never written;
BUSY is phase not 0; and in a state that meets the invariant DONE, ERR and ST_ERR tell the same end. -/
def Obligations.CallerReadsTheCodes : Prop :=
  (∀ s : State, (s.phase = .idle ↔ s.readPhase = 0) ∧ (s.phase = .linePending ↔ s.readPhase = 1) ∧
    (s.phase = .xferPending ↔ s.readPhase = 2) ∧ s.readPhase ≠ 3 ∧ (s.busy = true ↔ s.readPhase ≠ 0)) ∧
  (∀ s : State, (s.status.code = .none ↔ s.readStErr = 0) ∧ (s.status.code = .rangeError ↔ s.readStErr = 1) ∧
    (s.status.code = .invalidRegisterWidth ↔ s.readStErr = 2) ∧
    (s.status.code = .transportFailure ↔ s.readStErr = 3) ∧ s.readStErr.toNat ≤ 3) ∧
  (∀ s : State, s.Inv → s.readPhase = 0 → (s.err = true ↔ s.readStErr ≠ 0) ∧ (s.done = true → s.readStErr = 0) ∧
    (s.readStErr = 3 → ∃ e, s.readStTf = .ok e))

/-- R133, R196: an operation that ends in a validation error has written no result and no latch and issued no request;
the code is RangeError or InvalidRegisterWidth, ST_STAGE is 0 and ST_TF is not written. -/
def Obligations.ValidationErrorsLeaveNoEffect : Prop :=
  ∀ (i : Instr) (s t : State), s.phase = .idle → exec i s = .next t → t.err = true →
    (t.status.code = .rangeError ∨ t.status.code = .invalidRegisterWidth) ∧ t.status.stage = 0 ∧
    t.status.tf = s.status.tf ∧ t.done = false ∧ t.phase = .idle ∧ t.outstanding = none ∧
    t.results = s.results ∧ t.packer = s.packer ∧ t.latch = s.latch ∧ t.trace = s.trace

/-- R20: the outcome of an operation is a function of its operands and the configuration: from two IDLE states that
agree on the configuration alone it ends the same way, writes the same registers with the same values and issues the
same requests. So no error is sticky either (R198). -/
def Obligations.OutcomeDependsOnOperandsAndConfigurationOnly : Prop :=
  ∀ (i : Instr) (s s' t t' : State), s.cfg = s'.cfg → s.phase = .idle → s'.phase = .idle →
    exec i s = .next t → exec i s' = .next t' →
    t.phase = t'.phase ∧ t.done = t'.done ∧ t.err = t'.err ∧ t.outstanding = t'.outstanding ∧
    (t.phase = .idle → t.status.code = t'.status.code ∧ t.status.info = t'.status.info ∧
      t.status.stage = t'.status.stage) ∧
    (∃ events, t.trace = s.trace ++ events ∧ t'.trace = s'.trace ++ events) ∧
    (t.latch = t'.latch ∨ t.latch = s.latch ∧ t'.latch = s'.latch) ∧
    (t.packer = t'.packer ∨ t.packer = s.packer ∧ t'.packer = s'.packer) ∧
    (t.results.lv = t'.results.lv ∨ t.results.lv = s.results.lv ∧ t'.results.lv = s'.results.lv) ∧
    (t.results.packet = t'.results.packet ∨
      t.results.packet = s.results.packet ∧ t'.results.packet = s'.results.packet) ∧
    (t.results.int = t'.results.int ∨ t.results.int = s.results.int ∧ t'.results.int = s'.results.int) ∧
    (t.results.frame = t'.results.frame ∨
      t.results.frame = s.results.frame ∧ t'.results.frame = s'.results.frame) ∧
    (t.results.line = t'.results.line ∨ t.results.line = s.results.line ∧ t'.results.line = s'.results.line)

/-- R91: INIT_TABLE is the nineteen entries in rising order, RESET_PULSE asserts and then deasserts. That
every SEND of an expansion has one and the same EXPECT_REPLY and READ_LEN is the model's choice (log 22), the rising
order the spec's own reading (R91). -/
def Obligations.PseudoOperationsExpandInOrder : Prop :=
  (∀ (mode : BitVec 2) (tbl : Vector (BitVec 64) 19) (er : Bool) (n : Nat),
    (initTable mode tbl er n).length = 19 ∧
    ∀ k, ∀ h : k < 19, (initTable mode tbl er n)[k]? =
      some (.send mode (.initEntry (BitVec.ofNat 8 k) tbl[k]) er n)) ∧
  (∀ (mode : BitVec 2) (er : Bool) (n : Nat),
    resetPulse mode er n = [.send mode (.reset true) er n, .send mode (.reset false) er n])
end

