-- ==== Sys2Proof/Laws/Config.lean ====
section
/-! SUPPORT. The small lemmas of `Config`: the check is the predicate, the offset tables stay inside their fields and
are injective, the tags are clear of the payload. -/

namespace Sys2Proof.Config

theorem wellFormed_iff (c : Config) : c.wellFormed = true ↔ c.WF := by
  simp only [wellFormed, Bool.and_eq_true, decide_eq_true_eq]
  constructor
  · rintro ⟨⟨⟨⟨⟨⟨h1, h2⟩, h3⟩, h4⟩, h5⟩, h6⟩, h7⟩
    exact ⟨h1, h2, h3, h4, h5, h6, h7⟩
  · rintro ⟨h1, h2, h3, h4, h5, h6, h7⟩
    exact ⟨⟨⟨⟨⟨⟨h1, h2⟩, h3⟩, h4⟩, h5⟩, h6⟩, h7⟩

theorem WF.check {c : Config} (h : c.WF) : c.wellFormed = true := c.wellFormed_iff.mpr h

/-- An offset table's entry is one of the offsets. -/
theorem OffsetsOnto.mem {t : Vector Nat 8} {l : List Nat} (h : OffsetsOnto t l) (ch : Channel) :
    t[ch.val] ∈ l :=
  h.mem_iff.mp (by simp)

/-- Two channels with one offset are one channel (R9 (b): no two channels alias). -/
theorem OffsetsOnto.inj {t : Vector Nat 8} {l : List Nat} (h : OffsetsOnto t l) (hl : l.Nodup)
    {a b : Channel} (hab : t[a.val] = t[b.val]) : a = b := by
  have hn : t.toList.Nodup := h.nodup_iff.mpr hl
  have := (hn.getElem_inj_iff (i := a.val) (j := b.val) (hi := by simp) (hj := by simp)).mp
    (by simpa using hab)
  exact Fin.ext this

theorem attOffsets_nodup : attOffsets.Nodup := by decide
theorem phOffsets_nodup : phOffsets.Nodup := by decide

/-- An attenuation offset is a multiple of 4 up to 28. -/
theorem WF.att_mem {c : Config} (h : c.WF) (ch : Channel) :
    c.attOff[ch.val] % 4 = 0 ∧ c.attOff[ch.val] ≤ 28 := by
  have : ∀ x ∈ Sys2Proof.attOffsets, x % 4 = 0 ∧ x ≤ 28 := by decide
  exact this _ (h.attOffsets.mem ch)

/-- A phase offset is a multiple of 6 up to 42. -/
theorem WF.ph_mem {c : Config} (h : c.WF) (ch : Channel) :
    c.phOff[ch.val] % 6 = 0 ∧ c.phOff[ch.val] ≤ 42 := by
  have : ∀ x ∈ Sys2Proof.phOffsets, x % 6 = 0 ∧ x ≤ 42 := by decide
  exact this _ (h.phOffsets.mem ch)

theorem cfgRef_wf : cfgRef.WF := cfgRef.wellFormed_iff.mp (by decide)
theorem cfgAlt_wf : cfgAlt.WF := cfgAlt.wellFormed_iff.mp (by decide)

end Sys2Proof.Config
end

