-- ==== Sys2Proof/Laws/State.lean ====
section
/-! SUPPORT. One lemma per field per update of the state, true by `rfl`: no later proof unfolds a record update. -/

namespace Sys2Proof.Machine

/-! ### `State.accept` -/

@[simp] theorem State.accept_cfg (s : State) : s.accept.cfg = s.cfg := rfl
@[simp] theorem State.accept_port (s : State) : s.accept.port = s.port := rfl
@[simp] theorem State.accept_presented (s : State) : s.accept.presented = false := rfl
@[simp] theorem State.accept_phase (s : State) : s.accept.phase = s.phase := rfl
@[simp] theorem State.accept_outstanding (s : State) : s.accept.outstanding = s.outstanding := rfl
@[simp] theorem State.accept_latch (s : State) : s.accept.latch = s.latch := rfl
@[simp] theorem State.accept_done (s : State) : s.accept.done = false := rfl
@[simp] theorem State.accept_err (s : State) : s.accept.err = false := rfl
@[simp] theorem State.accept_status (s : State) : s.accept.status = s.status := rfl
@[simp] theorem State.accept_results (s : State) : s.accept.results = s.results := rfl
@[simp] theorem State.accept_packer (s : State) : s.accept.packer = s.packer := rfl
@[simp] theorem State.accept_trace (s : State) : s.accept.trace = s.trace := rfl
@[simp] theorem State.accept_line (s : State) : s.accept.line = s.line := rfl
@[simp] theorem State.accept_inputs (s : State) : s.accept.inputs = s.inputs := rfl

/-! ### `State.endOk` -/

@[simp] theorem State.endOk_cfg (s : State) : s.endOk.cfg = s.cfg := rfl
@[simp] theorem State.endOk_port (s : State) : s.endOk.port = s.port := rfl
@[simp] theorem State.endOk_presented (s : State) : s.endOk.presented = s.presented := rfl
@[simp] theorem State.endOk_phase (s : State) : s.endOk.phase = .idle := rfl
@[simp] theorem State.endOk_outstanding (s : State) : s.endOk.outstanding = none := rfl
@[simp] theorem State.endOk_latch (s : State) : s.endOk.latch = s.latch := rfl
@[simp] theorem State.endOk_done (s : State) : s.endOk.done = true := rfl
@[simp] theorem State.endOk_err (s : State) : s.endOk.err = s.err := rfl
@[simp] theorem State.endOk_status (s : State) : s.endOk.status = { s.status with code := .none, info := 0, stage := 0 } := rfl
@[simp] theorem State.endOk_results (s : State) : s.endOk.results = s.results := rfl
@[simp] theorem State.endOk_packer (s : State) : s.endOk.packer = s.packer := rfl
@[simp] theorem State.endOk_trace (s : State) : s.endOk.trace = s.trace := rfl
@[simp] theorem State.endOk_line (s : State) : s.endOk.line = s.line := rfl
@[simp] theorem State.endOk_inputs (s : State) : s.endOk.inputs = s.inputs := rfl

/-! ### `State.raise` -/

@[simp] theorem State.raise_cfg (s : State) (e : Err) : (s.raise e).cfg = s.cfg := rfl
@[simp] theorem State.raise_port (s : State) (e : Err) : (s.raise e).port = s.port := rfl
@[simp] theorem State.raise_presented (s : State) (e : Err) : (s.raise e).presented = s.presented := rfl
@[simp] theorem State.raise_phase (s : State) (e : Err) : (s.raise e).phase = .idle := rfl
@[simp] theorem State.raise_outstanding (s : State) (e : Err) : (s.raise e).outstanding = none := rfl
@[simp] theorem State.raise_latch (s : State) (e : Err) : (s.raise e).latch = s.latch := rfl
@[simp] theorem State.raise_done (s : State) (e : Err) : (s.raise e).done = s.done := rfl
@[simp] theorem State.raise_err (s : State) (e : Err) : (s.raise e).err = true := rfl
@[simp] theorem State.raise_status (s : State) (e : Err) : (s.raise e).status = { code := e.code, info := e.info, stage := e.stage, tf := e.tf.or s.status.tf } := rfl
@[simp] theorem State.raise_results (s : State) (e : Err) : (s.raise e).results = s.results := rfl
@[simp] theorem State.raise_packer (s : State) (e : Err) : (s.raise e).packer = s.packer := rfl
@[simp] theorem State.raise_trace (s : State) (e : Err) : (s.raise e).trace = s.trace := rfl
@[simp] theorem State.raise_line (s : State) (e : Err) : (s.raise e).line = s.line := rfl
@[simp] theorem State.raise_inputs (s : State) (e : Err) : (s.raise e).inputs = s.inputs := rfl

/-! ### `State.store` -/

@[simp] theorem State.store_cfg (s : State) (e : Effect) : (s.store e).cfg = s.cfg := rfl
@[simp] theorem State.store_port (s : State) (e : Effect) : (s.store e).port = s.port := rfl
@[simp] theorem State.store_presented (s : State) (e : Effect) : (s.store e).presented = s.presented := rfl
@[simp] theorem State.store_phase (s : State) (e : Effect) : (s.store e).phase = s.phase := rfl
@[simp] theorem State.store_outstanding (s : State) (e : Effect) : (s.store e).outstanding = s.outstanding := rfl
@[simp] theorem State.store_latch (s : State) (e : Effect) : (s.store e).latch = s.latch := rfl
@[simp] theorem State.store_done (s : State) (e : Effect) : (s.store e).done = s.done := rfl
@[simp] theorem State.store_err (s : State) (e : Effect) : (s.store e).err = s.err := rfl
@[simp] theorem State.store_status (s : State) (e : Effect) : (s.store e).status = s.status := rfl
@[simp] theorem State.store_results (s : State) (e : Effect) : (s.store e).results = s.results.write e.results := rfl
@[simp] theorem State.store_packer (s : State) (e : Effect) : (s.store e).packer = e.packer.or s.packer := rfl
@[simp] theorem State.store_trace (s : State) (e : Effect) : (s.store e).trace = s.trace := rfl
@[simp] theorem State.store_line (s : State) (e : Effect) : (s.store e).line = s.line := rfl
@[simp] theorem State.store_inputs (s : State) (e : Effect) : (s.store e).inputs = s.inputs := rfl

/-! ### `State.issue` -/

@[simp] theorem State.issue_cfg (s : State) (r : Request) : (s.issue r).cfg = s.cfg := rfl
@[simp] theorem State.issue_port (s : State) (r : Request) : (s.issue r).port = s.port := rfl
@[simp] theorem State.issue_presented (s : State) (r : Request) : (s.issue r).presented = s.presented := rfl
@[simp] theorem State.issue_phase (s : State) (r : Request) : (s.issue r).phase = s.phase := rfl
@[simp] theorem State.issue_outstanding (s : State) (r : Request) : (s.issue r).outstanding = some r := rfl
@[simp] theorem State.issue_latch (s : State) (r : Request) : (s.issue r).latch = s.latch := rfl
@[simp] theorem State.issue_done (s : State) (r : Request) : (s.issue r).done = s.done := rfl
@[simp] theorem State.issue_err (s : State) (r : Request) : (s.issue r).err = s.err := rfl
@[simp] theorem State.issue_status (s : State) (r : Request) : (s.issue r).status = s.status := rfl
@[simp] theorem State.issue_results (s : State) (r : Request) : (s.issue r).results = s.results := rfl
@[simp] theorem State.issue_packer (s : State) (r : Request) : (s.issue r).packer = s.packer := rfl
@[simp] theorem State.issue_trace (s : State) (r : Request) : (s.issue r).trace = s.trace ++ [r] := rfl
@[simp] theorem State.issue_line (s : State) (r : Request) : (s.issue r).line = s.line := rfl
@[simp] theorem State.issue_inputs (s : State) (r : Request) : (s.issue r).inputs = s.inputs := rfl

/-! ### `State.applyReset` -/

@[simp] theorem State.applyReset_cfg (s : State) : s.applyReset.cfg = s.cfg := rfl
@[simp] theorem State.applyReset_port (s : State) : s.applyReset.port = none := rfl
@[simp] theorem State.applyReset_presented (s : State) : s.applyReset.presented = false := rfl
@[simp] theorem State.applyReset_phase (s : State) : s.applyReset.phase = .idle := rfl
@[simp] theorem State.applyReset_outstanding (s : State) : s.applyReset.outstanding = none := rfl
@[simp] theorem State.applyReset_latch (s : State) : s.applyReset.latch = none := rfl
@[simp] theorem State.applyReset_done (s : State) : s.applyReset.done = false := rfl
@[simp] theorem State.applyReset_err (s : State) : s.applyReset.err = false := rfl
@[simp] theorem State.applyReset_status (s : State) : s.applyReset.status = .reset := rfl
@[simp] theorem State.applyReset_results (s : State) : s.applyReset.results = .empty := rfl
@[simp] theorem State.applyReset_packer (s : State) : s.applyReset.packer = none := rfl
@[simp] theorem State.applyReset_trace (s : State) : s.applyReset.trace = s.trace := rfl
@[simp] theorem State.applyReset_line (s : State) : s.applyReset.line = if s.phase = .linePending then none else s.line := rfl
@[simp] theorem State.applyReset_inputs (s : State) : s.applyReset.inputs = s.inputs := rfl

/-! ### `State.startSend` -/

@[simp] theorem State.startSend_cfg (s : State) (v : BitVec 2) (lv : LogicalValue) (er : Bool) (n : Nat) : (s.startSend v lv er n).cfg = s.cfg := rfl
@[simp] theorem State.startSend_port (s : State) (v : BitVec 2) (lv : LogicalValue) (er : Bool) (n : Nat) : (s.startSend v lv er n).port = s.port := rfl
@[simp] theorem State.startSend_presented (s : State) (v : BitVec 2) (lv : LogicalValue) (er : Bool) (n : Nat) : (s.startSend v lv er n).presented = s.presented := rfl
@[simp] theorem State.startSend_phase (s : State) (v : BitVec 2) (lv : LogicalValue) (er : Bool) (n : Nat) : (s.startSend v lv er n).phase = .linePending := rfl
@[simp] theorem State.startSend_outstanding (s : State) (v : BitVec 2) (lv : LogicalValue) (er : Bool) (n : Nat) : (s.startSend v lv er n).outstanding = some (.line v) := rfl
@[simp] theorem State.startSend_latch (s : State) (v : BitVec 2) (lv : LogicalValue) (er : Bool) (n : Nat) : (s.startSend v lv er n).latch = some { packet := (frameLv s.cfg lv).out, readLen := n, expect := er } := rfl
@[simp] theorem State.startSend_done (s : State) (v : BitVec 2) (lv : LogicalValue) (er : Bool) (n : Nat) : (s.startSend v lv er n).done = s.done := rfl
@[simp] theorem State.startSend_err (s : State) (v : BitVec 2) (lv : LogicalValue) (er : Bool) (n : Nat) : (s.startSend v lv er n).err = s.err := rfl
@[simp] theorem State.startSend_status (s : State) (v : BitVec 2) (lv : LogicalValue) (er : Bool) (n : Nat) : (s.startSend v lv er n).status = s.status := rfl
@[simp] theorem State.startSend_results (s : State) (v : BitVec 2) (lv : LogicalValue) (er : Bool) (n : Nat) : (s.startSend v lv er n).results = s.results.write { lv := some lv, packet := some (frameLv s.cfg lv).out, line := some v } := rfl
@[simp] theorem State.startSend_packer (s : State) (v : BitVec 2) (lv : LogicalValue) (er : Bool) (n : Nat) : (s.startSend v lv er n).packer = some (frameLv s.cfg lv) := rfl
@[simp] theorem State.startSend_trace (s : State) (v : BitVec 2) (lv : LogicalValue) (er : Bool) (n : Nat) : (s.startSend v lv er n).trace = s.trace ++ [.line v] := rfl
@[simp] theorem State.startSend_line (s : State) (v : BitVec 2) (lv : LogicalValue) (er : Bool) (n : Nat) : (s.startSend v lv er n).line = s.line := rfl
@[simp] theorem State.startSend_inputs (s : State) (v : BitVec 2) (lv : LogicalValue) (er : Bool) (n : Nat) : (s.startSend v lv er n).inputs = s.inputs := rfl

/-! ### `State.drive` -/

@[simp] theorem State.drive_cfg (s : State) (p : Port) : (s.drive p).cfg = s.cfg := rfl
@[simp] theorem State.drive_port (s : State) (p : Port) : (s.drive p).port = some p := rfl
@[simp] theorem State.drive_presented (s : State) (p : Port) : (s.drive p).presented = s.presented := rfl
@[simp] theorem State.drive_phase (s : State) (p : Port) : (s.drive p).phase = s.phase := rfl
@[simp] theorem State.drive_outstanding (s : State) (p : Port) : (s.drive p).outstanding = s.outstanding := rfl
@[simp] theorem State.drive_latch (s : State) (p : Port) : (s.drive p).latch = s.latch := rfl
@[simp] theorem State.drive_done (s : State) (p : Port) : (s.drive p).done = s.done := rfl
@[simp] theorem State.drive_err (s : State) (p : Port) : (s.drive p).err = s.err := rfl
@[simp] theorem State.drive_status (s : State) (p : Port) : (s.drive p).status = s.status := rfl
@[simp] theorem State.drive_results (s : State) (p : Port) : (s.drive p).results = s.results := rfl
@[simp] theorem State.drive_packer (s : State) (p : Port) : (s.drive p).packer = s.packer := rfl
@[simp] theorem State.drive_trace (s : State) (p : Port) : (s.drive p).trace = s.trace := rfl
@[simp] theorem State.drive_line (s : State) (p : Port) : (s.drive p).line = s.line := rfl
@[simp] theorem State.drive_inputs (s : State) (p : Port) : (s.drive p).inputs = s.inputs := rfl

/-! ### `State.present` -/

@[simp] theorem State.present_cfg (s : State) (p : Port) : (s.present p).cfg = s.cfg := rfl
@[simp] theorem State.present_port (s : State) (p : Port) : (s.present p).port = some p := rfl
@[simp] theorem State.present_presented (s : State) (p : Port) : (s.present p).presented = true := rfl
@[simp] theorem State.present_phase (s : State) (p : Port) : (s.present p).phase = s.phase := rfl
@[simp] theorem State.present_outstanding (s : State) (p : Port) : (s.present p).outstanding = s.outstanding := rfl
@[simp] theorem State.present_latch (s : State) (p : Port) : (s.present p).latch = s.latch := rfl
@[simp] theorem State.present_done (s : State) (p : Port) : (s.present p).done = s.done := rfl
@[simp] theorem State.present_err (s : State) (p : Port) : (s.present p).err = s.err := rfl
@[simp] theorem State.present_status (s : State) (p : Port) : (s.present p).status = s.status := rfl
@[simp] theorem State.present_results (s : State) (p : Port) : (s.present p).results = s.results := rfl
@[simp] theorem State.present_packer (s : State) (p : Port) : (s.present p).packer = s.packer := rfl
@[simp] theorem State.present_trace (s : State) (p : Port) : (s.present p).trace = s.trace := rfl
@[simp] theorem State.present_line (s : State) (p : Port) : (s.present p).line = s.line := rfl
@[simp] theorem State.present_inputs (s : State) (p : Port) : (s.present p).inputs = s.inputs := rfl

/-! ### `State.discard` -/

@[simp] theorem State.discard_cfg (s : State) : s.discard.cfg = s.cfg := rfl
@[simp] theorem State.discard_port (s : State) : s.discard.port = s.port := rfl
@[simp] theorem State.discard_presented (s : State) : s.discard.presented = s.presented := rfl
@[simp] theorem State.discard_phase (s : State) : s.discard.phase = s.phase := rfl
@[simp] theorem State.discard_outstanding (s : State) : s.discard.outstanding = s.outstanding := rfl
@[simp] theorem State.discard_latch (s : State) : s.discard.latch = s.latch := rfl
@[simp] theorem State.discard_done (s : State) : s.discard.done = s.done := rfl
@[simp] theorem State.discard_err (s : State) : s.discard.err = s.err := rfl
@[simp] theorem State.discard_status (s : State) : s.discard.status = s.status := rfl
@[simp] theorem State.discard_results (s : State) : s.discard.results = s.results := rfl
@[simp] theorem State.discard_packer (s : State) : s.discard.packer = s.packer := rfl
@[simp] theorem State.discard_trace (s : State) : s.discard.trace = s.trace := rfl
@[simp] theorem State.discard_line (s : State) : s.discard.line = none := rfl
@[simp] theorem State.discard_inputs (s : State) : s.discard.inputs = s.inputs := rfl

/-! ### `State.withFetchWord` -/

@[simp] theorem State.withFetchWord_cfg (s : State) (nbits w : Nat) : (s.withFetchWord nbits w).cfg = s.cfg := rfl
@[simp] theorem State.withFetchWord_port (s : State) (nbits w : Nat) : (s.withFetchWord nbits w).port = some (Port.ofTableWord nbits w) := rfl
@[simp] theorem State.withFetchWord_presented (s : State) (nbits w : Nat) : (s.withFetchWord nbits w).presented = true := rfl
@[simp] theorem State.withFetchWord_phase (s : State) (nbits w : Nat) : (s.withFetchWord nbits w).phase = .idle := rfl
@[simp] theorem State.withFetchWord_outstanding (s : State) (nbits w : Nat) : (s.withFetchWord nbits w).outstanding = s.outstanding := rfl
@[simp] theorem State.withFetchWord_latch (s : State) (nbits w : Nat) : (s.withFetchWord nbits w).latch = s.latch := rfl
@[simp] theorem State.withFetchWord_done (s : State) (nbits w : Nat) : (s.withFetchWord nbits w).done = s.done := rfl
@[simp] theorem State.withFetchWord_err (s : State) (nbits w : Nat) : (s.withFetchWord nbits w).err = s.err := rfl
@[simp] theorem State.withFetchWord_status (s : State) (nbits w : Nat) : (s.withFetchWord nbits w).status = s.status := rfl
@[simp] theorem State.withFetchWord_results (s : State) (nbits w : Nat) : (s.withFetchWord nbits w).results = s.results := rfl
@[simp] theorem State.withFetchWord_packer (s : State) (nbits w : Nat) : (s.withFetchWord nbits w).packer = s.packer := rfl
@[simp] theorem State.withFetchWord_trace (s : State) (nbits w : Nat) : (s.withFetchWord nbits w).trace = s.trace := rfl
@[simp] theorem State.withFetchWord_line (s : State) (nbits w : Nat) : (s.withFetchWord nbits w).line = s.line := rfl
@[simp] theorem State.withFetchWord_inputs (s : State) (nbits w : Nat) : (s.withFetchWord nbits w).inputs = s.inputs.dropWhile (· == .reset) := rfl

/-! ### Writing result registers -/

@[simp] theorem Results.write_lv (o w : Results) : (o.write w).lv = w.lv.or o.lv := rfl
@[simp] theorem Results.write_packet (o w : Results) : (o.write w).packet = w.packet.or o.packet := rfl
@[simp] theorem Results.write_int (o w : Results) : (o.write w).int = w.int.or o.int := rfl
@[simp] theorem Results.write_frame (o w : Results) : (o.write w).frame = w.frame.or o.frame := rfl
@[simp] theorem Results.write_reply (o w : Results) : (o.write w).reply = w.reply.or o.reply := rfl
@[simp] theorem Results.write_line (o w : Results) : (o.write w).line = w.line.or o.line := rfl

/-- Listing no result register leaves all of them (R28). -/
@[simp] theorem Results.write_empty (o : Results) : o.write {} = o := rfl

/-! ### BUSY -/

theorem State.busy_iff (s : State) : s.busy = true ↔ s.phase ≠ .idle := by simp [State.busy]
theorem State.busy_false_iff (s : State) : s.busy = false ↔ s.phase = .idle := by simp [State.busy]

end Sys2Proof.Machine
end

