-- ==== Sys2Proof/Laws/Ops.lean ====
section
/-! SUPPORT. One lemma per shared operation that says once what it can do: acceptance, a pure operation, SEND's
acceptance, an answer, an event of the world outside, and the step itself. Provers cite these and do not unfold. -/

namespace Sys2Proof.Machine

/-! ### Acceptance (R171) -/

theorem State.accepting_idle {s : State} (h : s.phase = .idle) (k : State → State) :
    s.accepting k = .next (k s.accept) := by
  simp [State.accepting, h]

theorem State.accepting_busy {s : State} (h : s.phase ≠ .idle) (k : State → State) :
    s.accepting k = .next s := by
  unfold State.accepting
  split <;> simp_all

/-- Acceptance always goes on: with the operation done in IDLE, unchanged when BUSY. -/
theorem State.accepting_cases (s : State) (k : State → State) :
    (s.phase = .idle ∧ s.accepting k = .next (k s.accept)) ∨ (s.phase ≠ .idle ∧ s.accepting k = .next s) := by
  by_cases h : s.phase = .idle
  · exact .inl ⟨h, State.accepting_idle h k⟩
  · exact .inr ⟨h, State.accepting_busy h k⟩

/-! ### Pure operations -/

theorem State.runPure_ok {s : State} (h : s.phase = .idle) (e : Effect) :
    s.runPure (.ok e) = .next ((s.accept.store e).endOk) := by
  simp [State.runPure, State.accepting_idle h]

theorem State.runPure_error {s : State} (h : s.phase = .idle) (e : Err) :
    s.runPure (.error e) = .next (s.accept.raise e) := by
  simp [State.runPure, State.accepting_idle h]

theorem State.runPure_busy {s : State} (h : s.phase ≠ .idle) (r : Except Err Effect) :
    s.runPure r = .next s := by
  simp [State.runPure, State.accepting_busy h]

/-- All a pure operation can do. -/
theorem State.runPure_cases {s t : State} {r : Except Err Effect} (h : s.runPure r = .next t) :
    (s.phase ≠ .idle ∧ t = s) ∨
    (s.phase = .idle ∧ ∃ e, r = .ok e ∧ t = (s.accept.store e).endOk) ∨
    (s.phase = .idle ∧ ∃ e, r = .error e ∧ t = s.accept.raise e) := by
  by_cases hi : s.phase = .idle
  · cases r with
    | ok e => rw [State.runPure_ok hi] at h; exact .inr (.inl ⟨hi, e, rfl, by injection h with h; exact h.symm⟩)
    | error e => rw [State.runPure_error hi] at h; exact .inr (.inr ⟨hi, e, rfl, by injection h with h; exact h.symm⟩)
  · rw [State.runPure_busy hi] at h; exact .inl ⟨hi, by injection h with h; exact h.symm⟩

/-! ### The error each check gives -/

/-- The errors an encoder's check gives: RangeError with info 1 to 6 (R192). -/
theorem buildCmd_error {c : Config} {cmd : EncCmd} {e : Err} (h : buildCmd c cmd = .error e) :
    ∃ n, 1 ≤ n ∧ n ≤ 6 ∧ e = .range n := by
  cases cmd <;>
    simp only [buildCmd, buildOnOffMask, buildAttenuation, buildCommonAttenuation, buildPhase, buildReset,
      buildRfEnable, buildInitEntry] at h
  case onOffMask => cases h
  case reset => cases h
  case rfEnable => cases h
  case attenuation => split at h <;> cases h; exact ⟨1, by omega, by omega, rfl⟩
  case commonAttenuation => split at h <;> cases h; exact ⟨3, by omega, by omega, rfl⟩
  case phase => split at h <;> cases h; exact ⟨2, by omega, by omega, rfl⟩
  case initEntry => split at h <;> cases h; exact ⟨4, by omega, by omega, rfl⟩
  case reserved => cases h; exact ⟨6, by omega, by omega, rfl⟩

theorem mode_cases : ∀ m : BitVec 2, m = 0#2 ∨ m = 1#2 ∨ m = 2#2 ∨ m = 3#2 := by decide

theorem lineOf_error {m : BitVec 2} {e : Err} (h : lineOf m = .error e) : m = 3#2 ∧ e = .range 5 := by
  rcases mode_cases m with rfl | rfl | rfl | rfl
  · cases h
  · cases h
  · cases h
  · injection h with h; exact ⟨rfl, h.symm⟩

/-- LINE_OF is numerically the mode, for the three modes there are (R166). -/
theorem lineOf_ok {m v : BitVec 2} : lineOf m = .ok v ↔ m ≠ 3#2 ∧ v = m := by
  rcases mode_cases m with rfl | rfl | rfl | rfl
  · exact ⟨fun h => ⟨by decide, by injection h with h; exact h.symm⟩, fun h => by rw [h.2]; rfl⟩
  · exact ⟨fun h => ⟨by decide, by injection h with h; exact h.symm⟩, fun h => by rw [h.2]; rfl⟩
  · exact ⟨fun h => ⟨by decide, by injection h with h; exact h.symm⟩, fun h => by rw [h.2]; rfl⟩
  · exact ⟨fun h => (by cases h), fun h => absurd rfl h.1⟩

theorem packCheck_error {vs : List (Nat × Nat)} {W : Nat} {e : Err} (h : packCheck vs W = .error e) :
    ∃ n, e = .width n := by
  simp only [packCheck] at h
  split at h
  · cases h; exact ⟨0, rfl⟩
  · split at h <;> cases h
    exact ⟨_, rfl⟩

theorem packCheck_ok {vs : List (Nat × Nat)} {W : Nat} :
    packCheck vs W = .ok () ↔ 1 ≤ W ∧ WidthsPositive vs := by
  simp only [packCheck, WidthsPositive]
  by_cases hW : W = 0
  · simp [hW]
  · rw [if_neg hW]
    constructor
    · intro h
      split at h
      · cases h
      · next hn =>
        rw [List.findIdx?_eq_none_iff] at hn
        refine ⟨by omega, fun vw hvw => ?_⟩
        have := hn vw hvw
        simp at this
        omega
    · rintro ⟨-, h⟩
      have : vs.findIdx? (fun vw => vw.2 == 0) = none := by
        rw [List.findIdx?_eq_none_iff]
        intro vw hvw
        have := h vw hvw
        simp; omega
      rw [this]

theorem widthCheck_error {W : Nat} {e : Err} (h : widthCheck W = .error e) : W = 0 ∧ e = .width 0 := by
  simp only [widthCheck] at h
  split at h <;> cases h
  exact ⟨by assumption, rfl⟩

theorem widthCheck_pos {W : Nat} (h : 1 ≤ W) : widthCheck W = .ok () := by
  simp [widthCheck]; omega

/-! ### The operation behind each pure instruction -/

/-- What a pure instruction yields; SEND is the one that is not pure (R170). -/
def pureOp (c : Config) : Instr → Option (Except Err Effect)
  | .pack vs W be => some (packOp vs W be)
  | .unpack ws W => some (unpackOp ws W)
  | .onOffMask en => some (encoderOp c (buildOnOffMask c en))
  | .attenuation ch l => some (encoderOp c (buildAttenuation c ch l))
  | .commonAttenuation l => some (encoderOp c (buildCommonAttenuation c l))
  | .phase ch l => some (encoderOp c (buildPhase c ch l))
  | .reset a => some (encoderOp c (buildReset a))
  | .rfEnable a => some (encoderOp c (buildRfEnable a))
  | .initEntry n p => some (encoderOp c (buildInitEntry c n p))
  | .decodeTelemetry ws W => some (telemetryOp ws W)
  | .modeLineValue m => some (modeLineOp m)
  | .send _ _ _ _ => none

theorem exec_pure {i : Instr} {s : State} {r : Except Err Effect} (h : pureOp s.cfg i = some r) :
    exec i s = s.runPure r := by
  cases i <;> simp only [pureOp, Option.some.injEq, reduceCtorEq] at h <;> subst h <;> rfl

/-! ### SEND -/

/-- All the acceptance of a SEND can do (R171, R172). -/
theorem execSend_cases {m : BitVec 2} {cmd : EncCmd} {er : Bool} {n : Nat} {s t : State}
    (h : execSend m cmd er n s = .next t) :
    (s.phase ≠ .idle ∧ t = s) ∨
    (s.phase = .idle ∧ ∃ e, sendPrepare s.cfg m cmd = .error e ∧ t = s.accept.raise e) ∨
    (s.phase = .idle ∧ ∃ v lv, sendPrepare s.cfg m cmd = .ok (v, lv) ∧ t = s.accept.startSend v lv er n) := by
  rcases State.accepting_cases s (fun a => match sendPrepare a.cfg m cmd with
      | .error e => a.raise e
      | .ok (v, lv) => a.startSend v lv er n) with ⟨hi, h'⟩ | ⟨hb, h'⟩
  · have ht := h.symm.trans h'
    injection ht with ht
    subst ht
    right
    simp only [State.accept_cfg]
    cases hp : sendPrepare s.cfg m cmd with
    | error e => exact .inl ⟨hi, e, rfl, rfl⟩
    | ok p => exact .inr ⟨hi, p.1, p.2, rfl, rfl⟩
  · have ht := h.symm.trans h'
    injection ht with ht
    exact .inl ⟨hb, ht⟩

theorem sendPrepare_ok {c : Config} {m : BitVec 2} {cmd : EncCmd} {v : BitVec 2} {lv : LogicalValue} :
    sendPrepare c m cmd = .ok (v, lv) ↔ m ≠ 3#2 ∧ v = m ∧ buildCmd c cmd = .ok lv := by
  unfold sendPrepare
  cases hl : lineOf m with
  | error e => obtain ⟨rfl, -⟩ := lineOf_error hl; simp
  | ok w =>
    obtain ⟨hm, rfl⟩ := lineOf_ok.mp hl
    cases buildCmd c cmd <;> simp [hm, eq_comm]

theorem sendPrepare_error {c : Config} {m : BitVec 2} {cmd : EncCmd} {e : Err}
    (h : sendPrepare c m cmd = .error e) : ∃ n, 1 ≤ n ∧ n ≤ 6 ∧ e = .range n := by
  unfold sendPrepare at h
  cases hl : lineOf m with
  | error e' => rw [hl] at h; cases h; obtain ⟨-, rfl⟩ := lineOf_error hl; exact ⟨5, by omega, by omega, rfl⟩
  | ok w =>
    rw [hl] at h
    cases hb : buildCmd c cmd with
    | error e' => simp only [hb] at h; cases h; exact buildCmd_error hb
    | ok lv => simp [hb] at h

/-! ### Every operation -/

/-- All an operation can do: held, a pure one ended with its effect or its error, a SEND refused by its checks or started (R171, R172). -/
theorem exec_cases {i : Instr} {s t : State} (h : exec i s = .next t) :
    (s.phase ≠ .idle ∧ t = s) ∨
    (s.phase = .idle ∧ i.isSend = false ∧ ∃ e, pureOp s.cfg i = some (.ok e) ∧ t = (s.accept.store e).endOk) ∨
    (s.phase = .idle ∧ i.isSend = false ∧ ∃ e, pureOp s.cfg i = some (.error e) ∧ t = s.accept.raise e) ∨
    (s.phase = .idle ∧ ∃ m cmd er n, i = .send m cmd er n ∧ ∃ e, sendPrepare s.cfg m cmd = .error e ∧ t = s.accept.raise e) ∨
    (s.phase = .idle ∧ ∃ m cmd er n, i = .send m cmd er n ∧ ∃ v lv, sendPrepare s.cfg m cmd = .ok (v, lv) ∧ t = s.accept.startSend v lv er n) := by
  cases hp : pureOp s.cfg i with
  | none =>
    cases i <;> simp [pureOp] at hp
    rename_i m cmd er n
    rcases execSend_cases h with h | ⟨hi, e, h1, h2⟩ | ⟨hi, v, lv, h1, h2⟩
    · exact .inl h
    · exact .inr (.inr (.inr (.inl ⟨hi, m, cmd, er, n, rfl, e, h1, h2⟩)))
    · exact .inr (.inr (.inr (.inr ⟨hi, m, cmd, er, n, rfl, v, lv, h1, h2⟩)))
  | some r =>
    have hs : i.isSend = false := by cases i <;> first | rfl | simp [pureOp] at hp
    rw [exec_pure hp] at h
    rcases State.runPure_cases h with h | ⟨hi, e, rfl, h2⟩ | ⟨hi, e, rfl, h2⟩
    · exact .inl h
    · exact .inr (.inl ⟨hi, hs, e, rfl, h2⟩)
    · exact .inr (.inr (.inl ⟨hi, hs, e, rfl, h2⟩))

/-- An encoder errs as its check does. -/
theorem encoderOp_error {c : Config} {b : Except Err LogicalValue} {e : Err} (h : encoderOp c b = .error e) : b = .error e := by
  cases b <;> simp [encoderOp] at h ⊢; exact h

/-- What an encoder yields: RES_LV and its packet, and the working registers its PACK leaves (R120, R121). -/
theorem encoderOp_ok {c : Config} {b : Except Err LogicalValue} {e : Effect} (h : encoderOp c b = .ok e) :
    ∃ lv, b = .ok lv ∧ e = { results := { lv := some lv, packet := some (frameLv c lv).out }, packer := some (frameLv c lv) } := by
  cases b with
  | error => simp [encoderOp] at h
  | ok lv => simp [encoderOp] at h; exact ⟨lv, rfl, h.symm⟩

/-- Every encoder operation is the command of some KIND (R88, R170). -/
theorem encoder_pureOp {c : Config} {i : Instr} (h : i.isEncoder = true) : ∃ cmd, encodeCommand cmd = some i ∧ pureOp c i = some (encoderOp c (buildCmd c cmd)) := by
  cases i <;> simp [Instr.isEncoder] at h
  case onOffMask en => exact ⟨.onOffMask en, rfl, rfl⟩
  case attenuation ch l => exact ⟨.attenuation ch l, rfl, rfl⟩
  case commonAttenuation l => exact ⟨.commonAttenuation l, rfl, rfl⟩
  case phase ch l => exact ⟨.phase ch l, rfl, rfl⟩
  case reset a => exact ⟨.reset a, rfl, rfl⟩
  case rfEnable a => exact ⟨.rfEnable a, rfl, rfl⟩
  case initEntry n p => exact ⟨.initEntry n p, rfl, rfl⟩

/-- The operation a command names yields what the encoder builds. -/
theorem encodeCommand_pureOp {c : Config} {cmd : EncCmd} {i : Instr} (h : encodeCommand cmd = some i) : pureOp c i = some (encoderOp c (buildCmd c cmd)) := by
  cases cmd <;> simp [encodeCommand] at h <;> subst h <;> rfl

/-- The errors a pure operation gives: RangeError 1 to 6, or InvalidRegisterWidth (R192, R193). -/
theorem pureOp_error {c : Config} {i : Instr} {e : Err} (h : pureOp c i = some (.error e)) :
    (∃ n, 1 ≤ n ∧ n ≤ 6 ∧ e = .range n) ∨ (∃ n, e = .width n) := by
  cases i <;> simp only [pureOp, Option.some.injEq, reduceCtorEq] at h
  case pack vs W be =>
    right; unfold packOp at h; split at h
    · next e' he => cases h; exact packCheck_error he
    · cases h
  case unpack ws W =>
    right; unfold unpackOp at h; split at h
    · next e' he => cases h; exact ⟨0, (widthCheck_error he).2⟩
    · cases h
  case decodeTelemetry ws W =>
    right; unfold telemetryOp at h; split at h
    · next e' he => cases h; exact ⟨0, (widthCheck_error he).2⟩
    · cases h
  case modeLineValue m =>
    left; unfold modeLineOp at h; split at h
    · next e' he => cases h; exact ⟨5, by omega, by omega, (lineOf_error he).2⟩
    · cases h
  case onOffMask en => exact .inl (buildCmd_error (cmd := .onOffMask en) (encoderOp_error h))
  case attenuation ch l => exact .inl (buildCmd_error (cmd := .attenuation ch l) (encoderOp_error h))
  case commonAttenuation l => exact .inl (buildCmd_error (cmd := .commonAttenuation l) (encoderOp_error h))
  case phase ch l => exact .inl (buildCmd_error (cmd := .phase ch l) (encoderOp_error h))
  case reset a => exact .inl (buildCmd_error (c := c) (cmd := .reset a) (encoderOp_error h))
  case rfEnable a => exact .inl (buildCmd_error (c := c) (cmd := .rfEnable a) (encoderOp_error h))
  case initEntry n p => exact .inl (buildCmd_error (cmd := .initEntry n p) (encoderOp_error h))

/-! ### Answers (R173 to R176) -/

/-- All an answer to the outstanding LineWrite can do. -/
theorem State.lineAnswered_cases {s t : State} {r : Response} (h : s.lineAnswered r = .next t) :
    (∃ l, s.latch = some l ∧ r = .lineOk ∧
      t = State.issue { s with phase := .xferPending, line := s.outstanding.bind Request.lineValue }
        (.xfer l.packet l.readLen)) ∨
    (∃ e, r = .lineFail e ∧ t = State.raise { s with line := none } (.transport 0 e)) := by
  cases r with
  | lineOk =>
    simp only [State.lineAnswered] at h
    split at h
    · next l hl => injection h with h; exact .inl ⟨l, hl, rfl, h.symm⟩
    · cases h
  | lineFail e => injection h with h; exact .inr ⟨e, rfl, h.symm⟩
  | xferOk _ => cases h
  | xferFail _ => cases h

/-- All an answer to the outstanding Exchange can do. -/
theorem State.xferAnswered_cases {s t : State} {r : Response} (h : s.xferAnswered r = .next t) :
    (∃ l reply, s.latch = some l ∧ r = .xferOk reply ∧ WordsBelow s.cfg.W reply ∧
      t = s.captureReply reply l.expect) ∨
    (∃ e, r = .xferFail e ∧ t = s.raise (.transport 1 e)) := by
  cases r with
  | lineOk => cases h
  | lineFail _ => cases h
  | xferOk reply =>
    simp only [State.xferAnswered] at h
    split at h
    · next l hl =>
      split at h
      · next hw => injection h with h; exact .inl ⟨l, reply, hl, rfl, by simpa [WordsBelow] using hw, h.symm⟩
      · cases h
    · cases h
  | xferFail e => injection h with h; exact .inr ⟨e, rfl, h.symm⟩

/-- All an answer can do: it is a late one, or it is to the LineWrite, or to the Exchange. -/
theorem State.answered_cases {s t : State} {id : Nat} {r : Response} (h : s.answered id r = .next t) :
    t = s.discard ∨ (s.isOutstanding id = true ∧ s.phase = .linePending ∧ s.lineAnswered r = .next t) ∨
    (s.isOutstanding id = true ∧ s.phase = .xferPending ∧ s.xferAnswered r = .next t) := by
  unfold State.answered at h
  split at h
  · next ho =>
    split at h
    · injection h with h; exact .inl h.symm
    · next hp => exact .inr (.inl ⟨ho, hp, h⟩)
    · next hp => exact .inr (.inr ⟨ho, hp, h⟩)
  · injection h with h; exact .inl h.symm

/-! ### The world outside, and the step -/

/-- All an event of the world outside can do. -/
theorem environment_cases {s t : State} (h : environment s = .next t) :
    ∃ i rest, s.inputs = i :: rest ∧
      ((∃ p, i = .drive p ∧ t = State.drive { s with inputs := rest } p) ∨
       (∃ p, i = .present p ∧ t = State.present { s with inputs := rest } p) ∨
       (∃ id r, i = .answer id r ∧ State.answered { s with inputs := rest } id r = .next t) ∨
       (i = .reset ∧ t = State.applyReset { s with inputs := rest })) := by
  unfold environment at h
  split at h
  · split at h <;> cases h
  · next i rest hin =>
    refine ⟨i, rest, hin, ?_⟩
    cases i with
    | drive p => injection h with h; exact .inl ⟨p, rfl, h.symm⟩
    | present p => injection h with h; exact .inr (.inl ⟨p, rfl, h.symm⟩)
    | answer id r => exact .inr (.inr (.inl ⟨id, r, rfl, h⟩))
    | reset => injection h with h; exact .inr (.inr (.inr ⟨rfl, h.symm⟩))

theorem State.resetNext_iff {s : State} : s.resetNext = true ↔ ∃ rest, s.inputs = .reset :: rest := by
  unfold State.resetNext
  split <;> simp_all

/-- An operation can be accepted exactly in IDLE with one presented and no reset to come first. -/
theorem State.acceptable_some {s : State} {p : Port} :
    s.acceptable = some p ↔ s.phase = .idle ∧ s.presented = true ∧ s.resetNext = false ∧ s.port = some p := by
  unfold State.acceptable
  cases s.phase <;> simp [and_assoc]

/-- A reset comes before any acceptance (R220). -/
theorem State.acceptable_reset {s : State} {rest : List Input} (h : s.inputs = .reset :: rest) :
    s.acceptable = none := by
  have : s.resetNext = true := State.resetNext_iff.mpr ⟨rest, h⟩
  cases ha : s.acceptable with
  | none => rfl
  | some p => simp [(State.acceptable_some.mp ha).2.2.1] at this

theorem State.acceptable_busy {s : State} (h : s.phase ≠ .idle) : s.acceptable = none := by
  unfold State.acceptable
  split <;> simp_all

theorem step_accept {s : State} {p : Port} (hc : s.cfg.WF) (ha : s.acceptable = some p) :
    step s = acceptPort p s := by
  simp [step, hc.check, ha]

theorem step_environment {s : State} (hc : s.cfg.WF) (ha : s.acceptable = none) :
    step s = environment s := by
  simp [step, hc.check, ha]

/-- The step after `withFetchWord` is the acceptance of that word's operation. -/
theorem step_withFetchWord {s : State} (hc : s.cfg.WF) (nbits w : Nat) :
    step (s.withFetchWord nbits w) = acceptPort (Port.ofTableWord nbits w) (s.withFetchWord nbits w) := by
  refine step_accept hc (State.acceptable_some.mpr ⟨rfl, rfl, ?_, rfl⟩)
  rw [← Bool.not_eq_true, State.resetNext_iff]
  rintro ⟨rest, h⟩
  have := List.head?_dropWhile_not (fun i : Input => i == .reset) s.inputs
  rw [State.withFetchWord_inputs] at h
  rw [h] at this
  simp at this

/-- All a step can do: accept a well-typed operation, refuse a reserved OP by an error, or let the world outside
move. -/
theorem step_cases {s t : State} (h : step s = .next t) :
    s.cfg.WF ∧
    ((∃ p i, s.acceptable = some p ∧ decode p = .ok i ∧ i.wellFormed = true ∧ exec i s = .next t) ∨
     (∃ p, s.acceptable = some p ∧ execReservedOp s = .next t) ∨
     (s.acceptable = none ∧ environment s = .next t)) := by
  unfold step at h
  split at h
  · next hc =>
    refine ⟨s.cfg.wellFormed_iff.mp hc, ?_⟩
    split at h
    · next p hp =>
      unfold acceptPort at h
      split at h
      · next i hi =>
        split at h
        · next hw => exact .inl ⟨p, i, hp, hi, hw, h⟩
        · cases h
      · exact .inr (.inl ⟨p, hp, h⟩)
    · next hp => exact .inr (.inr ⟨hp, h⟩)
  · cases h

end Sys2Proof.Machine
end

