-- ==== Sys2Proof/Laws/Pack.lean ====
section
/-! SUPPORT. The packing loop against its closed form (40_bitpacker.md R108): `PackedTo` is the loop invariant, one
lemma per level (bit, value, sequence), and UNPACK's loop against its sum (R109). -/

namespace Sys2Proof.Machine

/-- The loop invariant of R108: after T stream bits of stream integer S, the full words are out and the rest is in
the accumulator. -/
structure PackedTo (W S T : Nat) (p : Packer) : Prop where
  cnt : p.cnt = T % W
  out : p.out = digitsLE S W (T / W)
  acc : p.acc = S / 2 ^ (T / W * W)
  bound : S < 2 ^ T

theorem digitsLE_length (S W n : Nat) : (digitsLE S W n).length = n := by simp [digitsLE]

theorem digitsLE_succ (S W n : Nat) : digitsLE S W (n + 1) = digitsLE S W n ++ [digit S W n] := by
  simp [digitsLE, List.range_succ]

theorem digit_lt (S W k : Nat) : digit S W k < 2 ^ W := Nat.mod_lt _ (Nat.two_pow_pos W)

/-- A digit below bit T does not see what is added from bit T up. -/
theorem digit_add_high {W k T : Nat} (S b : Nat) (h : (k + 1) * W ≤ T) :
    digit (S + b * 2 ^ T) W k = digit S W k := by
  have hT : T = k * W + (W + (T - (k + 1) * W)) := by rw [Nat.succ_mul] at h ⊢; omega
  have : b * 2 ^ T = 2 ^ (k * W) * (2 ^ W * (2 ^ (T - (k + 1) * W) * b)) := by
    conv_lhs => rw [hT, pow_add, pow_add]
    ring
  rw [digit, digit, this, Nat.add_mul_div_left _ _ (Nat.two_pow_pos _), Nat.add_mul_mod_self_left]

theorem digitsLE_add_high {W n T : Nat} (S b : Nat) (h : n * W ≤ T) :
    digitsLE (S + b * 2 ^ T) W n = digitsLE S W n := by
  refine List.map_congr_left fun k hk => digit_add_high S b (le_trans ?_ h)
  exact Nat.mul_le_mul_right W (by simpa using hk)

theorem packedTo_cleared (W : Nat) : PackedTo W 0 0 .cleared := by
  constructor <;> simp [Packer.cleared, digitsLE]

/-- One bit of the loop. -/
theorem PackedTo.takeBit {W S T : Nat} {p : Packer} (hW : 1 ≤ W) (h : PackedTo W S T p) (b : Bool) :
    PackedTo W (S + b.toNat * 2 ^ T) (T + 1) (p.takeBit W b) := by
  have hdm := Nat.div_add_mod T W
  have hml := Nat.mod_lt T hW
  have hcomm : W * (T / W) = T / W * W := Nat.mul_comm _ _
  have hb : b.toNat ≤ 1 := Bool.toNat_le b
  have hacc : p.acc ||| b.toNat <<< p.cnt = (S + b.toNat * 2 ^ T) / 2 ^ (T / W * W) := by
    have hlt : p.acc < 2 ^ p.cnt := by
      rw [h.acc, h.cnt]
      refine Nat.div_lt_of_lt_mul ?_
      rw [← pow_add, show T / W * W + T % W = T by omega]
      exact h.bound
    have hpow : b.toNat * 2 ^ T = 2 ^ (T / W * W) * (b.toNat * 2 ^ p.cnt) := by
      rw [h.cnt]
      conv_lhs => rw [show T = T / W * W + T % W by omega, pow_add]
      ring
    rw [hpow, Nat.add_mul_div_left _ _ (Nat.two_pow_pos _), ← h.acc, Nat.or_comm,
      ← Nat.shiftLeft_add_eq_or_of_lt hlt, Nat.shiftLeft_eq]
    omega
  have hbound : S + b.toNat * 2 ^ T < 2 ^ (T + 1) := by
    have h1 := h.bound
    have h2 : b.toNat * 2 ^ T ≤ 1 * 2 ^ T := Nat.mul_le_mul_right _ hb
    rw [pow_succ]; omega
  rw [Packer.takeBit]
  simp only [hacc]
  split
  · next hfull =>
    have hq : (T + 1) / W = T / W + 1 := by
      have : T + 1 = W * (T / W + 1) := by rw [Nat.mul_add]; rw [h.cnt] at hfull; omega
      rw [this, Nat.mul_div_cancel_left _ hW]
    have hr : (T + 1) % W = 0 := by
      have : T + 1 = W * (T / W + 1) := by rw [Nat.mul_add]; rw [h.cnt] at hfull; omega
      rw [this, Nat.mul_mod_right]
    have hT1 : T + 1 = (T / W + 1) * W := by
      have := Nat.div_add_mod (T + 1) W; rw [hq, hr] at this; rw [Nat.mul_comm]; omega
    refine ⟨by simp [hr], ?_, ?_, hbound⟩
    · simp only [hq, digitsLE_succ, h.out]
      rw [digitsLE_add_high S _ (by omega), digit, Nat.mod_eq_of_lt (a := _ / _)]
      refine Nat.div_lt_of_lt_mul ?_
      rw [← pow_add, ← Nat.succ_mul, ← hT1]
      exact hbound
    · simp only [hq, ← hT1]
      exact (Nat.div_eq_of_lt hbound).symm
  · next hpart =>
    have hlt : T % W + 1 < W := by rw [h.cnt] at hpart; omega
    have hq : (T + 1) / W = T / W := by
      rw [Nat.div_eq_of_lt_le] <;> rw [Nat.mul_comm] <;> [skip; rw [Nat.mul_succ]] <;> omega
    have hr : (T + 1) % W = T % W + 1 := by
      have := Nat.div_add_mod (T + 1) W; rw [hq] at this; omega
    refine ⟨by simp [hr, h.cnt], ?_, by simp only [hq], hbound⟩
    simp only [hq, h.out]
    exact (digitsLE_add_high S _ (by omega)).symm

theorem mod_two_pow_succ_bit (v w : Nat) : v % 2 ^ (w + 1) = v % 2 ^ w + (v.testBit w).toNat * 2 ^ w := by
  rw [pow_succ, Nat.mod_mul, Nat.toNat_testBit, Nat.mul_comm]

/-- One value of the loop: only its low `w` bits enter (R104). -/
theorem PackedTo.takeValue {W S T : Nat} {p : Packer} (hW : 1 ≤ W) (h : PackedTo W S T p) (v w : Nat) :
    PackedTo W (S + v % 2 ^ w * 2 ^ T) (T + w) (p.takeValue W (v, w)) := by
  induction w with
  | zero => simpa [Packer.takeValue, Nat.mod_one] using h
  | succ w ih =>
    have hs : p.takeValue W (v, w + 1) = (p.takeValue W (v, w)).takeBit W (v.testBit w) := by
      simp [Packer.takeValue, List.range_succ]
    have := ih.takeBit hW (v.testBit w)
    rw [hs, mod_two_pow_succ_bit, ← Nat.add_assoc T]
    convert this using 1
    rw [pow_add]; ring

/-- The whole sequence. -/
theorem PackedTo.takeAll {W : Nat} (hW : 1 ≤ W) (values : List (Nat × Nat)) :
    ∀ {S T : Nat} {p : Packer}, PackedTo W S T p →
      PackedTo W (S + streamInt values * 2 ^ T) (T + streamLen values) (values.foldl (Packer.takeValue W) p) := by
  induction values with
  | nil => intro S T p h; simpa [streamInt, streamLen] using h
  | cons vw rest ih =>
    intro S T p h
    have := ih (h.takeValue hW vw.1 vw.2)
    simp only [List.foldl_cons, streamInt, streamLen]
    convert this using 1
    · rw [pow_add]; ring
    · omega

theorem packedTo_loop {W : Nat} (hW : 1 ≤ W) (values : List (Nat × Nat)) :
    PackedTo W (streamInt values) (streamLen values) (values.foldl (Packer.takeValue W) .cleared) := by
  simpa using PackedTo.takeAll hW values (packedTo_cleared W)

/-- The partial word completes the digits (R105). -/
theorem PackedTo.flush {W S T : Nat} {p : Packer} (hW : 1 ≤ W) (h : PackedTo W S T p) :
    p.flush.out = digitsLE S W (wordCount T W) := by
  have hdm := Nat.div_add_mod T W
  have hml := Nat.mod_lt T hW
  have hcomm : W * (T / W) = T / W * W := Nat.mul_comm _ _
  rw [Packer.flush]
  split
  · next hpos =>
    rw [h.cnt] at hpos
    have hq : wordCount T W = T / W + 1 := by
      refine Nat.div_eq_of_lt_le ?_ ?_ <;> simp only [Nat.add_mul, Nat.one_mul] <;> omega
    rw [hq, digitsLE_succ, h.out, h.acc, digit, Nat.mod_eq_of_lt (a := _ / _)]
    refine Nat.div_lt_of_lt_mul ?_
    rw [← pow_add]
    exact lt_of_lt_of_le h.bound (Nat.pow_le_pow_right (by omega) (by omega))
  · next hzero =>
    rw [h.cnt] at hzero
    have hq : wordCount T W = T / W := by
      refine Nat.div_eq_of_lt_le (by omega) ?_
      simp only [Nat.add_mul, Nat.one_mul]; omega
    rw [hq, h.out]

/-- PACK's loop in closed form. -/
theorem packLoop_out {W : Nat} (hW : 1 ≤ W) (values : List (Nat × Nat)) (be : Bool) :
    (packLoop values W be).out = packetOf (streamInt values) (streamLen values) W be := by
  have h := (packedTo_loop hW values).flush hW
  cases be <;> simp [packLoop, Packer.reorder, packetOf, h]

theorem packetOf_length (S T W : Nat) (be : Bool) : (packetOf S T W be).length = wordCount T W := by
  cases be <;> simp [packetOf, digitsLE_length]

theorem packetOf_below (S T W : Nat) (be : Bool) : WordsBelow W (packetOf S T W be) := by
  intro r hr
  have : r ∈ digitsLE S W (wordCount T W) := by cases be <;> simpa [packetOf] using hr
  obtain ⟨k, -, rfl⟩ := List.mem_map.mp this
  exact digit_lt S W k

/-- A stream fits its bit count. -/
theorem streamInt_lt (values : List (Nat × Nat)) : streamInt values < 2 ^ streamLen values := by
  simpa using (packedTo_loop (W := 1) le_rfl values).bound

/-- Framing a logical value (R121). -/
theorem frameLv_out {c : Config} (hW : 1 ≤ c.W) {lv : LogicalValue} (h : lv.value < 2 ^ lv.width) :
    (frameLv c lv).out = commandPacket c lv := by
  rw [frameLv, packLoop_out hW, commandPacket]
  simp [streamInt, streamLen, Nat.mod_eq_of_lt h]

/-- UNPACK's loop is the sum of R109 when every word fits. -/
theorem unpackWords_eq {W : Nat} {words : List TransportWord} (h : WordsBelow W words) :
    unpackWords words W = wordsInt W words := by
  have key : ∀ (ws : List TransportWord) (x : Nat), WordsBelow W ws →
      ws.foldl (fun x r => x <<< W ||| r) x = x * 2 ^ (W * ws.length) + wordsInt W ws := by
    intro ws
    induction ws with
    | nil => intro x _; simp [wordsInt]
    | cons r rest ih =>
      intro x hws
      have hr : r < 2 ^ W := hws r (by simp)
      rw [List.foldl_cons, ih _ (fun r' h' => hws r' (by simp [h'])), wordsInt,
        ← Nat.shiftLeft_add_eq_or_of_lt hr, Nat.shiftLeft_eq, List.length_cons, Nat.mul_succ, pow_add]
      ring
  simpa [unpackWords] using key words 0 h

theorem wordsInt_lt {W : Nat} {words : List TransportWord} (h : WordsBelow W words) :
    wordsInt W words < 2 ^ (words.length * W) := by
  induction words with
  | nil => simp [wordsInt]
  | cons r rest ih =>
    have hr : r + 1 ≤ 2 ^ W := h r (by simp)
    have hi := ih (fun r' h' => h r' (by simp [h']))
    rw [wordsInt, List.length_cons, Nat.succ_mul, pow_add, Nat.mul_comm W]
    generalize 2 ^ (rest.length * W) = P at hi ⊢
    have := Nat.mul_le_mul_right P hr
    rw [Nat.add_mul, Nat.one_mul, Nat.mul_comm (2 ^ W) P] at this
    omega

end Sys2Proof.Machine
end

