-- ==== Sys2Proof/Laws/PerInstr.lean ====
section
/-! SUPPORT. A statement about every operation as syntax, one lemma per constructor: the encoded op code is the row's of
30_encoding.md R88, and it is none of the reserved codes of R89. -/

namespace Sys2Proof.Laws.EncodedOpCode

/-- The registers that present an operation carry its op code, which is not a reserved one. -/
def Statement (i : Instr) : Prop :=
  (encode i).op = i.opCode ∧ i.opCode.toNat ≤ 0xB

theorem pack (values : List (Nat × Nat)) (outWidth : Nat) (bigEndian : Bool) :
    Statement (.pack values outWidth bigEndian) := ⟨rfl, Nat.le_of_ble_eq_true rfl⟩
theorem unpack (words : List TransportWord) (outWidth : Nat) : Statement (.unpack words outWidth) := ⟨rfl, Nat.le_of_ble_eq_true rfl⟩
theorem onOffMask (en : BitVec 8) : Statement (.onOffMask en) := ⟨rfl, Nat.le_of_ble_eq_true rfl⟩
theorem attenuation (chan : Channel) (level : BitVec 8) : Statement (.attenuation chan level) := ⟨rfl, Nat.le_of_ble_eq_true rfl⟩
theorem commonAttenuation (level : BitVec 8) : Statement (.commonAttenuation level) := ⟨rfl, Nat.le_of_ble_eq_true rfl⟩
theorem phase (chan : Channel) (level : BitVec 8) : Statement (.phase chan level) := ⟨rfl, Nat.le_of_ble_eq_true rfl⟩
theorem reset (asserted : Bool) : Statement (.reset asserted) := ⟨rfl, Nat.le_of_ble_eq_true rfl⟩
theorem rfEnable (asserted : Bool) : Statement (.rfEnable asserted) := ⟨rfl, Nat.le_of_ble_eq_true rfl⟩
theorem initEntry (index : BitVec 8) (payload : BitVec 64) : Statement (.initEntry index payload) := ⟨rfl, Nat.le_of_ble_eq_true rfl⟩
theorem decodeTelemetry (words : List TransportWord) (outWidth : Nat) : Statement (.decodeTelemetry words outWidth) :=
  ⟨rfl, Nat.le_of_ble_eq_true rfl⟩
theorem modeLineValue (mode : BitVec 2) : Statement (.modeLineValue mode) := ⟨rfl, Nat.le_of_ble_eq_true rfl⟩
theorem send (mode : BitVec 2) (cmd : EncCmd) (expectReply : Bool) (readLen : Nat) :
    Statement (.send mode cmd expectReply readLen) := by
  cases cmd <;> exact ⟨rfl, Nat.le_of_ble_eq_true rfl⟩

end Sys2Proof.Laws.EncodedOpCode
end

