-- ==== Sys2Proof/Tests/Slice0.lean ====
section
/-! SUPPORT. Tests, each one step or one definition, expected results taken from 95_test_vectors.md (the id of the
vector in the comment) or read off the rule it names; and one witness per statement that has hypotheses. -/

open Sys2Proof Sys2Proof.Machine

namespace Sys2Proof.Tests

/-! ### Helpers -/

/-- The next state, if the machine goes on. -/
def after : Host.Outcome State Fault Refusal → Option State
  | .next t => some t
  | .fault _ => none
  | .refused _ => none

/-- Reset state of a configuration with an operation presented at the port. -/
def presenting (c : Config) (p : Port) : State :=
  { State.resetOf c with port := some p, presented := true }

/-- One step from there, and what it leaves in RES_LV and RES_PACKET. -/
def encoded (c : Config) (p : Port) : Option (Option LogicalValue × Option (List TransportWord)) :=
  (after (step (presenting c p))).map fun t => (t.results.lv, t.results.packet)

/-- One step from there that ends in an error: ST_ERR, ST_INFO. -/
def failing (p : Port) : Option (ErrCode × Nat) :=
  (after (step (presenting .cfgRef p))).bind fun t =>
    if t.err && !t.done && !t.busy && t.trace.isEmpty then some (t.status.code, t.status.info) else none

/-- The packet of vectors G7 and q of P4. -/
def packetQ : List TransportWord := [0x000, 0x000, 0x000, 0x000, 0x000, 0x03C, 0x000]

/-- `SEND RX, ATTENUATION 3, 15, expect, 7` accepted (S9): LINE_PENDING with its LineWrite outstanding. -/
def linePending (expect : Bool) (inputs : List Input) : State :=
  { State.resetOf .cfgRef with
    phase := .linePending
    outstanding := some (.line 1)
    latch := some { packet := packetQ, readLen := 7, expect := expect }
    trace := [.line 1]
    results := { lv := some { value := 0xF000, width := 64 }, packet := some packetQ, line := some 1 }
    inputs := inputs }

/-- The same SEND with its LineWrite answered (S10): XFER_PENDING. -/
def xferPending (expect : Bool) (inputs : List Input) : State :=
  { linePending expect inputs with
    phase := .xferPending
    outstanding := some (.xfer packetQ 7)
    trace := [.line 1, .xfer packetQ 7]
    line := some 1 }

/-- A SEND presented, its two answers to come (S2). -/
def sendS2 : State :=
  { presenting .cfgRef { Port.zero with
      op := 0xB, mode := 1, kind := 0x3, chan := 2, level := 9, expectReply := true, readLen := 6 } with
    inputs := [.answer 0 .lineOk, .answer 1 (.xferOk [0, 0, 0, 0, 0, 23])] }

/-! ### WellFormed refuses each ill-formed term -/

theorem test_wf_unpack_word_too_wide : (Instr.unpack [7, 8] 3).wellFormed = false := by decide
theorem test_wf_unpack_word_fits : (Instr.unpack [7, 0] 3).wellFormed = true := by decide
theorem test_wf_telemetry_word_too_wide : (Instr.decodeTelemetry [0x400] 10).wellFormed = false := by decide
theorem test_wf_width_zero_is_not_ill_typed : (Instr.unpack [1] 0).wellFormed = true := by decide
theorem test_wf_reserved_kind_names_an_encoder :
    ∀ k ∈ [2, 3, 4, 5, 6, 7, 8], (Instr.send 1 (.reserved (BitVec.ofNat 4 k)) false 0).wellFormed = false := by decide
theorem test_wf_reserved_kind_names_none :
    ∀ k ∈ [0, 1, 9, 10, 15], (Instr.send 1 (.reserved (BitVec.ofNat 4 k)) false 0).wellFormed = true := by decide

/-- R9, one ill-formed configuration per clause. -/
theorem test_wf_config_word_width : ({ Config.cfgRef with W := 0 } : Config).wellFormed = false := by decide
theorem test_wf_config_attenuation_offsets :
    ({ Config.cfgRef with attOff := #v[0, 4, 8, 12, 16, 20, 24, 24] } : Config).wellFormed = false := by decide
theorem test_wf_config_phase_offsets :
    ({ Config.cfgRef with phOff := #v[0, 6, 12, 18, 24, 30, 36, 43] } : Config).wellFormed = false := by decide
theorem test_wf_config_tag_over_payload :
    ({ Config.cfgRef with tagBW0 := 2 ^ 41 } : Config).wellFormed = false := by decide
theorem test_wf_config_tag_too_wide :
    ({ Config.cfgRef with tagBW1 := 2 ^ 64 } : Config).wellFormed = false := by decide
theorem test_wf_config_common_codes_equal :
    ({ Config.cfgRef with catt8dB := 0 } : Config).wellFormed = false := by decide
theorem test_wf_config_common_code_two :
    ({ Config.cfgRef with catt8dB := 2 } : Config).wellFormed = false := by decide
theorem test_wf_config_init_width : ({ Config.cfgRef with initWidth := 63 } : Config).wellFormed = false := by decide
theorem test_wf_config_init_mask :
    ({ Config.cfgRef with initTagMask := 2 ^ 64 } : Config).wellFormed = false := by decide
theorem test_wf_config_init_tag_outside_mask :
    ({ Config.cfgRef with initTag := Vector.replicate 19 1 } : Config).wellFormed = false := by decide
/-- Offsets in another order are as good (R9 (b)). -/
theorem test_wf_config_permuted_offsets :
    ({ Config.cfgRef with attOff := #v[28, 24, 20, 16, 12, 8, 4, 0] } : Config).wellFormed = true := by decide

/-! ### Decoding, from the OP and KIND codes of R88 and the registers of R23 -/

/-- P5 step 3. -/
theorem test_decode_pack :
    decode { Port.zero with op := 0x0, values := [(0x21, 6), (0x09, 4)], outWidth := 10, bigEndian := true } =
      .ok (.pack [(0x21, 6), (0x09, 4)] 10 true) := by decide
/-- P5 step 2. -/
theorem test_decode_unpack :
    decode { Port.zero with op := 0x1, words := [0x2A5, 0x261], outWidth := 10 } =
      .ok (.unpack [0x2A5, 0x261] 10) := by decide
theorem test_decode_on_off_mask : decode { Port.zero with op := 0x2, en := 0xA5 } = .ok (.onOffMask 0xA5) := by decide
theorem test_decode_attenuation :
    decode { Port.zero with op := 0x3, chan := 7, level := 15 } = .ok (.attenuation 7 15) := by decide
theorem test_decode_common_attenuation :
    decode { Port.zero with op := 0x4, level := 1, chan := 5 } = .ok (.commonAttenuation 1) := by decide
theorem test_decode_phase : decode { Port.zero with op := 0x5, chan := 2, level := 33 } = .ok (.phase 2 33) := by decide
theorem test_decode_reset : decode { Port.zero with op := 0x6, asserted := true } = .ok (.reset true) := by decide
theorem test_decode_rf_enable : decode { Port.zero with op := 0x7, asserted := true } = .ok (.rfEnable true) := by decide
theorem test_decode_init_entry :
    decode { Port.zero with op := 0x8, index := 18, payload := 0x2222222222222230 } =
      .ok (.initEntry 18 0x2222222222222230) := by decide
/-- P5 step 6. -/
theorem test_decode_telemetry :
    decode { Port.zero with op := 0x9, words := [0x03E, 0x1CC], outWidth := 10 } =
      .ok (.decodeTelemetry [0x03E, 0x1CC] 10) := by decide
/-- P5 step 7. -/
theorem test_decode_mode_line_value : decode { Port.zero with op := 0xA, mode := 2 } = .ok (.modeLineValue 2) := by decide
/-- P2 step 2. -/
theorem test_decode_send :
    decode { Port.zero with op := 0xB, mode := 2, kind := 0x5, chan := 2, level := 33, readLen := 7 } =
      .ok (.send 2 (.phase 2 33) false 7) := by decide
/-- P4 step 7: KIND names PACK, no encoder. -/
theorem test_decode_send_kind_reserved :
    decode { Port.zero with op := 0xB, kind := 0x1 } = .ok (.send 0 (.reserved 1) false 0) := by decide
/-- P4 step 8. -/
theorem test_decode_reserved_op : decode { Port.zero with op := 0xD } = .error (.reservedOp 0xD) := by decide
/-- Every KIND of R88 on one port. -/
theorem test_decode_send_kinds :
    [2, 3, 4, 5, 6, 7, 8].map (fun k => decodeKind { Port.zero with
      kind := BitVec.ofNat 4 k, chan := 1, level := 9, en := 3, asserted := true, index := 4, payload := 5 }) =
    [.onOffMask 3, .attenuation 1 9, .commonAttenuation 9, .phase 1 9, .reset true, .rfEnable true, .initEntry 4 5] := by
  decide

/-! ### BitPacker -/

/-- B6 and P5 step 1: two values in one word. -/
theorem test_pack_big_endian :
    (after (step (presenting .cfgRef { Port.zero with
      op := 0x0, values := [(0x21, 6), (0x09, 4), (0x2A5, 10)], outWidth := 10, bigEndian := true }))).map
      (·.results.packet) = some (some [0x2A5, 0x261]) := by decide +kernel
/-- B14: both values cut to their declared widths; the last word partial. -/
theorem test_pack_truncates_values :
    (after (exec (.pack [(0x1234, 8), (0x1FF, 6)] 10 false) (State.resetOf .cfgRef))).map (·.results.packet) =
      some (some [0x334, 0x00F]) := by decide +kernel
/-- UNPACK alone: leading zero words add width, not value. -/
theorem test_unpack_leading_zero_words :
    (after (exec (.unpack [0, 0, 7] 4) (State.resetOf .cfgRef))).map (·.results.int) =
      some (some { value := 7, width := 12 }) := by decide +kernel
/-- B9, both orders undone: the most significant word stands first. -/
theorem test_unpack_word_order :
    (after (exec (.unpack [0x0DE, 0x2AF] 10) (State.resetOf .cfgRef))).map (·.results.int) =
      some (some { value := 0x37AAF, width := 20 }) := by decide +kernel
/-- The errors of section 2: the output width is checked first, then the first width 0. -/
theorem test_pack_errors :
    failing { Port.zero with op := 0x0, values := [(1, 0)], outWidth := 0 } =
        some (.invalidRegisterWidth, 0) ∧
    failing { Port.zero with op := 0x0, values := [(1, 3), (0, 0), (5, 0)], outWidth := 10 } =
        some (.invalidRegisterWidth, 2) ∧
    failing { Port.zero with op := 0x1, words := [1], outWidth := 0 } =
        some (.invalidRegisterWidth, 0) := by decide +kernel

/-! ### RegisterEncoder -/

/-- G3. -/
theorem test_on_off_mask :
    encoded .cfgRef { Port.zero with op := 0x2, en := 0xA5 } =
      some (some { value := 0x0000029400000000, width := 64 },
        some [0x000, 0x000, 0x002, 0x250, 0x000, 0x000, 0x000]) := by decide +kernel
/-- H5: the tag of CFG_ALT. -/
theorem test_attenuation :
    encoded .cfgAlt { Port.zero with op := 0x3, chan := 7, level := 15 } =
      some (some { value := 0x10000000F0000000, width := 64 },
        some [0x001, 0x000, 0x000, 0x003, 0x300, 0x000, 0x000]) := by decide +kernel
/-- H7. -/
theorem test_common_attenuation :
    encoded .cfgAlt { Port.zero with op := 0x4, level := 1 } =
      some (some { value := 0x1000000100000000, width := 64 },
        some [0x001, 0x000, 0x000, 0x004, 0x000, 0x000, 0x000]) := by decide +kernel
/-- G15. -/
theorem test_phase :
    encoded .cfgRef { Port.zero with op := 0x5, chan := 2, level := 33 } =
      some (some { value := 0x0001000000021000, width := 64 },
        some [0x000, 0x000, 0x100, 0x000, 0x000, 0x084, 0x000]) := by decide +kernel
/-- H11: tag 0 in every configuration. -/
theorem test_reset :
    encoded .cfgAlt { Port.zero with op := 0x6, asserted := true } =
      some (some { value := 0x0000000001000000, width := 64 },
        some [0x000, 0x000, 0x000, 0x000, 0x010, 0x000, 0x000]) := by decide +kernel
/-- G20. -/
theorem test_rf_enable :
    encoded .cfgRef { Port.zero with op := 0x7, asserted := true } =
      some (some { value := 0x0000000000800000, width := 64 },
        some [0x000, 0x000, 0x000, 0x000, 0x008, 0x000, 0x000]) := by decide +kernel
/-- H14: the last entry, 72 bits. -/
theorem test_init_entry :
    encoded .cfgAlt { Port.zero with op := 0x8, index := 18, payload := 0xFFFFFFFFFFFFFFFF } =
      some (some { value := 0x32FFFFFFFFFFFFFFFF, width := 72 },
        some [0x000, 0x32F, 0x3FF, 0x3FF, 0x3FF, 0x3FF, 0x3FF, 0x3FF]) := by decide +kernel
/-- The errors of section 3. -/
theorem test_encoder_errors :
    [{ Port.zero with op := 0x3, level := 16 }, { Port.zero with op := 0x5, level := 64 },
      { Port.zero with op := 0x4, level := 2 }, { Port.zero with op := 0x4, level := 4 },
      { Port.zero with op := 0x8, index := 19 }].map failing =
    [some (.rangeError, 1), some (.rangeError, 2), some (.rangeError, 3), some (.rangeError, 3),
      some (.rangeError, 4)] := by decide +kernel

/-! ### TelemetryDecoder -/

/-- T3: every field distinct, bits 59:46 set and ignored. -/
theorem test_decode_telemetry_fields :
    (after (step (presenting .cfgRef { Port.zero with
      op := 0x9, words := [0x3FF, 0x03E, 0x1CC, 0x148, 0x0C4, 0x057], outWidth := 10 }))).map (·.results.frame) =
      some (some ⟨23, 1, 2, 3, 4, 5, 6, 7, 31⟩) := by decide +kernel
/-- T8: four words, PWR6 straddles and reads four bits. -/
theorem test_decode_telemetry_short :
    (after (exec (.decodeTelemetry [0x3FF, 0x3FF, 0x3FF, 0x3FF] 10) (State.resetOf .cfgRef))).map (·.results.frame) =
      some (some ⟨63, 31, 31, 31, 31, 31, 31, 15, 0⟩) := by decide +kernel

/-! ### ModeDispatcher -/

/-- Section 5. -/
theorem test_mode_line_value :
    (after (step (presenting .cfgRef { Port.zero with op := 0xA, mode := 2 }))).map
      (fun t => (t.results.line, t.trace)) = some (some 2, []) ∧
    failing { Port.zero with op := 0xA, mode := 3 } = some (.rangeError, 5) := by decide +kernel
/-- S9, S14: accepted, one LineWrite, the packet latched. -/
theorem test_send_accepted :
    after (step (presenting .cfgRef { Port.zero with
      op := 0xB, mode := 1, kind := 0x3, chan := 3, level := 15, expectReply := true, readLen := 7 })) =
    some { linePending true [] with
      port := some { Port.zero with
        op := 0xB, mode := 1, kind := 0x3, chan := 3, level := 15, expectReply := true, readLen := 7 }
      packer := some { acc := 0, cnt := 4, out := packetQ } } := by decide +kernel
/-- S13, S12, S8: MODE is checked before KIND and the encoder. -/
theorem test_send_checks_in_order :
    failing { Port.zero with op := 0xB, mode := 3, kind := 0x3, level := 16 } = some (.rangeError, 5) ∧
    failing { Port.zero with op := 0xB, mode := 1, kind := 0x0 } = some (.rangeError, 6) ∧
    failing { Port.zero with op := 0xB, mode := 1, kind := 0x3, level := 16 } = some (.rangeError, 1) ∧
    failing { Port.zero with op := 0xD } = some (.rangeError, 6) := by decide +kernel

/-- S10: the LineWrite answered. -/
theorem test_line_ok : after (step (linePending false [.answer 0 .lineOk])) = some (xferPending false []) := by
  decide +kernel
/-- S9. -/
theorem test_line_fail :
    after (step (linePending false [.answer 0 (.lineFail ⟨41⟩)])) =
    some { linePending false [] with
      phase := .idle, outstanding := none, err := true
      status := { code := .transportFailure, info := 0, stage := 0, tf := some ⟨41⟩ } } := by decide +kernel
/-- S2's reply: captured and decoded. -/
theorem test_xfer_ok :
    (after (step (xferPending true [.answer 1 (.xferOk [0, 0, 0, 0, 0, 23])]))).map
      (fun t => (t.phase, t.done, t.results.reply, t.results.frame)) =
    some (.idle, true, some [0, 0, 0, 0, 0, 23], some ⟨23, 0, 0, 0, 0, 0, 0, 0, 0⟩) := by decide +kernel
/-- S10. -/
theorem test_xfer_fail :
    after (step (xferPending true [.answer 1 (.xferFail ⟨42⟩)])) =
    some { xferPending true [] with
      phase := .idle, outstanding := none, err := true
      status := { code := .transportFailure, info := 0, stage := 1, tf := some ⟨42⟩ } } := by decide +kernel
/-- R220: a reset that comes while a SEND waits at the port in IDLE leaves no LineWrite behind (R32). -/
theorem test_reset_before_acceptance :
    (after (step { sendS2 with inputs := [.reset] })).map (fun t => (t.presented, t.port, t.outstanding, t.trace)) =
      some (false, none, none, []) := by decide +kernel
/-- S14: never answered; and nothing presented after reset (R221). -/
theorem test_waits :
    step (linePending false []) = .fault .noTransportResponse ∧
    step State.reset = .fault .noOperationPresented := ⟨rfl, rfl⟩
/-- R13, U12: an answer of the other kind and a reply word of eleven bits are ill typed. -/
theorem test_ill_typed_answers :
    step (linePending false [.answer 0 (.xferOk [])]) = .refused .illTypedResponse ∧
    step (xferPending false [.answer 1 (.xferOk [0x400])]) = .refused .illTypedResponse := ⟨rfl, rfl⟩

/-! ### Witnesses: for each statement with hypotheses, a state and operands that meet them all together

`idle` is reset state with something to come; `presenting` has an operation at the port. A statement about `exec` whose
only hypothesis on the state is `phase = .idle` (and a well-formed configuration) is met by `idle`. -/

/-- Reset state of CFG_ALT with a script. -/
def idle (inputs : List Input) : State := { State.resetOf .cfgAlt with inputs := inputs }

theorem test_inv_linePending (e : Bool) (inputs : List Input) : (linePending e inputs).Inv := by
  refine ⟨Config.cfgRef_wf, ⟨_, _, rfl, rfl, rfl, rfl, rfl, ?_⟩, ?_, ⟨rfl, rfl⟩, ?_, ?_, ?_⟩
  · show WordsBelow 10 packetQ; unfold WordsBelow; decide
  · simp [FlagsOk, State.busy, linePending, State.resetOf]
  · simp [Results.Valid, linePending, State.resetOf, LogicalValue.Valid]
  · intro k words n h
    rcases k with _ | k <;> simp [linePending] at h
  · simp [linePending, Request.Valid]

theorem test_inv_xferPending (e : Bool) (inputs : List Input) : (xferPending e inputs).Inv := by
  have hp : WordsBelow 10 packetQ := by unfold WordsBelow; decide
  refine ⟨Config.cfgRef_wf, ⟨_, rfl, rfl, rfl, rfl⟩, ?_, ⟨rfl, rfl⟩, ?_, ?_, ?_⟩
  · simp [FlagsOk, State.busy, xferPending, linePending, State.resetOf]
  · simp [Results.Valid, xferPending, linePending, State.resetOf, LogicalValue.Valid]
  · intro k words n h
    rcases k with _ | _ | k <;> simp [xferPending] at h
    exact ⟨by omega, 1, rfl⟩
  · intro q hq
    simp [xferPending] at hq
    rcases hq with rfl | rfl
    · show (1#2) ≠ 3#2; decide
    · exact hp

theorem test_witness_DecodeOfEncodeIsTheInstruction :
    (Instr.send 2 (.attenuation 7 255) true 7).wellFormed = true ∧ (Instr.unpack [1023] 10).wellFormed = true ∧
    (Instr.send 0 (.reserved 9) false 0).wellFormed = true := by decide
theorem test_witness_DecodeReadsOnlyTheUsedOperands :
    UsedOperandsAgree { Port.zero with op := 0x6, asserted := true, en := 0xFF, level := 9 }
      { Port.zero with op := 0x6, asserted := true, chan := 3, readLen := 2 } ∧
    UsedOperandsAgree { Port.zero with op := 0xB, mode := 2, kind := 0x8, index := 4, payload := 5, en := 1 }
      { Port.zero with op := 0xB, mode := 2, kind := 0x8, index := 4, payload := 5, level := 7 } ∧
    ¬ UsedOperandsAgree { Port.zero with op := 0x6, asserted := true } { Port.zero with op := 0x6 } ∧
    decode { Port.zero with op := 0x6, asserted := true, en := 0xFF, level := 9 } = .ok (.reset true) := by
  refine ⟨⟨rfl, rfl⟩, ⟨rfl, rfl, rfl, rfl, rfl, rfl, rfl⟩, fun h => ?_, rfl⟩
  have : true = false := h.2
  cases this
theorem test_witness_StepRunsThePresentedOperation :
    ∃ p i, sendS2.cfg.WF ∧ sendS2.phase = .idle ∧ sendS2.presented = true ∧ sendS2.resetNext = false ∧
      sendS2.port = some p ∧ decode p = .ok i ∧ i.wellFormed = true :=
  ⟨_, _, Config.cfgRef_wf, rfl, rfl, rfl, rfl, rfl, rfl⟩
theorem test_witness_ReservedCodesAreRangeErrorSix :
    (∀ op ∈ [12, 15], ∃ (s : State) (p : Port), s.cfg.WF ∧ s.phase = .idle ∧ s.presented = true ∧ s.resetNext = false ∧
      s.port = some p ∧
      p.op = BitVec.ofNat 4 op ∧ 12 ≤ p.op.toNat) ∧
    (∀ kind ∈ [0, 1, 9, 15], ∃ (s : State) (p : Port), s.cfg.WF ∧ s.phase = .idle ∧ s.presented = true ∧ s.resetNext = false ∧
      s.port = some p ∧
      p.op = 0xB#4 ∧ p.mode ≠ 3#2 ∧ p.kind = BitVec.ofNat 4 kind ∧ (p.kind.toNat < 2 ∨ 8 < p.kind.toNat)) := by
  constructor
  · intro op h
    refine ⟨presenting .cfgRef { Port.zero with op := BitVec.ofNat 4 op }, _, Config.cfgRef_wf, rfl, rfl, rfl,
      rfl, rfl, ?_⟩
    simp at h
    rcases h with rfl | rfl <;> decide
  · intro k h
    refine ⟨presenting .cfgRef { Port.zero with op := 0xB, mode := 2, kind := BitVec.ofNat 4 k }, _,
      Config.cfgRef_wf, rfl, rfl, rfl, rfl, rfl, by show (2#2) ≠ 3#2; decide, rfl, ?_⟩
    simp at h
    rcases h with rfl | rfl | rfl | rfl <;> decide
theorem test_witness_IllTypedInputIsRefused :
    (∃ (s : State) (p : Port) (i : Instr), s.cfg.WF ∧ s.phase = .idle ∧ s.presented = true ∧ s.resetNext = false ∧
      s.port = some p ∧ decode p = .ok i ∧ i.wellFormed = false) ∧
    (∃ (p : Port) (i : Instr), decode p = .ok i ∧ i.isUnpack = false ∧ i.isTelemetry = false) ∧
    (∃ s : State, ¬ s.cfg.WF) :=
  ⟨⟨presenting .cfgRef { Port.zero with op := 0x9, words := [0, 1024], outWidth := 10 }, _, _, Config.cfgRef_wf, rfl,
    rfl, rfl, rfl, rfl, rfl⟩, ⟨{ Port.zero with op := 0xB, kind := 9 }, _, rfl, rfl, rfl⟩,
    ⟨State.resetOf { Config.cfgRef with W := 0 }, fun h => absurd h.wordWidth (by decide)⟩⟩
theorem test_witness_ResetMeetsTheInvariant : Config.cfgRef.WF ∧ Config.cfgAlt.WF := ⟨Config.cfgRef_wf, Config.cfgAlt_wf⟩
/-- Also of NoStepWritesTheConfiguration and of PhaseAndTraceMoveOnlyBySendStepsAndReset. -/
theorem test_witness_EveryStepKeepsTheInvariant :
    (∃ t, (linePending true [.answer 0 .lineOk]).Inv ∧ step (linePending true [.answer 0 .lineOk]) = .next t) ∧
    (∃ t, (xferPending true [.answer 1 (.xferOk [1023])]).Inv ∧
      step (xferPending true [.answer 1 (.xferOk [1023])]) = .next t) :=
  ⟨⟨_, test_inv_linePending _ _, rfl⟩, ⟨_, test_inv_xferPending _ _, rfl⟩⟩
theorem test_witness_ResetLeavesEveryRegisterAsStated :
    (∃ (s : State) (rest : List Input), s.cfg.WF ∧ s.inputs = .reset :: rest ∧ s.phase = .idle ∧ s.presented = true) ∧
    (∃ (s : State) (rest : List Input), s.cfg.WF ∧ s.inputs = .reset :: rest ∧ s.phase = .xferPending) ∧
    (∃ (s : State) (rest : List Input), s.cfg.WF ∧ s.inputs = .reset :: rest ∧ s.phase = .linePending) :=
  ⟨⟨{ sendS2 with inputs := [.reset] }, _, Config.cfgRef_wf, rfl, rfl, rfl⟩,
    ⟨xferPending true [.reset], _, Config.cfgRef_wf, rfl, rfl⟩,
    ⟨linePending true [.reset], _, Config.cfgRef_wf, rfl, rfl⟩⟩
theorem test_witness_LateAnswerIsDiscarded :
    (∃ (s : State) (id : Nat) (r : Response) (rest : List Input), s.cfg.WF ∧ s.acceptable = none ∧ s.inputs = .answer id r :: rest ∧ s.outstanding = none) ∧
    (∃ (s : State) (id : Nat) (r : Response) (rest : List Input), s.cfg.WF ∧ s.acceptable = none ∧ s.inputs = .answer id r :: rest ∧ s.outstanding ≠ none ∧
      id + 1 ≠ s.trace.length) :=
  ⟨⟨idle [.answer 0 .lineOk], _, _, _, Config.cfgAlt_wf, rfl, rfl, rfl⟩,
    ⟨xferPending true [.answer 0 (.xferOk [])], _, _, _, Config.cfgRef_wf, rfl, rfl, by decide, by decide⟩⟩
theorem test_witness_OnlyNamedStopsOccur : (linePending false []).Inv ∧ (xferPending false []).Inv :=
  ⟨test_inv_linePending _ _, test_inv_xferPending _ _⟩
/-- The other kind in each phase, and the first word too wide and the last that fits. -/
theorem test_witness_AnswersNotAllowedAreRefused :
    (∀ r ∈ [.xferOk [], .xferFail ⟨1⟩], (linePending true [.answer 0 r]).Inv ∧
      (linePending true [.answer 0 r]).outstanding = some (.line 1) ∧ ¬ r.Allowed 10 (.line 1)) ∧
    (∀ r ∈ [.lineOk, .lineFail ⟨1⟩, .xferOk [1024]], (xferPending true [.answer 1 r]).Inv ∧
      (xferPending true [.answer 1 r]).outstanding = some (.xfer packetQ 7) ∧ ¬ r.Allowed 10 (.xfer packetQ 7)) ∧
    (xferPending true [.answer 1 (.xferOk [1023])]).Inv ∧
    (Response.xferOk [1023]).Allowed 10 (.xfer packetQ 7) := by
  refine ⟨fun r hr => ⟨test_inv_linePending _ _, rfl, ?_⟩, fun r hr => ⟨test_inv_xferPending _ _, rfl, ?_⟩,
    test_inv_xferPending _ _, ?_⟩
  · simp at hr
    rcases hr with rfl | rfl <;> simp [Response.Allowed]
  · simp at hr
    rcases hr with rfl | rfl | rfl <;> simp [Response.Allowed, WordsBelow]
  · simp [Response.Allowed, WordsBelow]
/-- In IDLE, and while a SEND is in progress. -/
theorem test_witness_CallerWritesThePort :
    (∃ (s : State) (p : Port) (rest : List Input), s.cfg.WF ∧ s.acceptable = none ∧ s.inputs = .drive p :: rest) ∧
    (∃ (s : State) (p : Port) (rest : List Input), s.cfg.WF ∧ s.acceptable = none ∧ s.busy = true ∧
      s.inputs = .present p :: rest) :=
  ⟨⟨idle [.drive .zero], _, _, Config.cfgAlt_wf, rfl, rfl⟩,
    ⟨linePending true [.present .zero], _, _, Config.cfgRef_wf, rfl, rfl, rfl⟩⟩

/-- Also of BigEndianPacketIsTheReversal and UnpackInvertsBigEndianPack: B1 (78 bits, a partial word) and B4 (20 bits,
none). -/
theorem test_witness_PackYieldsTheDigitsOfTheStream :
    (idle []).phase = .idle ∧ 1 ≤ 10 ∧ WidthsPositive [(0x2A, 6), (0xFF, 8), (0x0123456789ABCDEF, 64)] ∧
    WidthsPositive [(0x3FF, 10), (0x001, 10)] ∧ streamLen [(0x3FF, 10), (0x001, 10)] % 10 = 0 ∧ WidthsPositive [] := by
  unfold WidthsPositive; decide
theorem test_witness_PackRefusesZeroWidths :
    (idle []).phase = .idle ∧ 1 ≤ 1 ∧ [(1, 3), (0, 0), (5, 0)][1]? = some (0, 0) ∧
    ∀ j < 1, ∀ vw, [(1, 3), (0, 0), (5, 0)][j]? = some vw → vw.2 ≠ 0 := by
  refine ⟨rfl, by decide, rfl, ?_⟩
  rintro (_ | j) hj vw h
  · cases h; decide
  · omega
/-- Also of DecodeTelemetryReadsTheNineFields and TelemetryBitsComeFromTheWords. -/
theorem test_witness_UnpackConcatenatesTheWords :
    (idle []).phase = .idle ∧ 1 ≤ 1 ∧ WordsBelow 1 [1, 0, 1] ∧ WordsBelow 10 [0x3FF] ∧ WordsBelow 10 [] := by
  unfold WordsBelow; decide
/-- B6 and the packet its comment names. -/
theorem test_witness_PacketDependsOnStreamAndLengthOnly :
    WidthsPositive [(0b10110, 5), (0b00111, 5), (0x2AB, 10)] ∧ WidthsPositive [(0xAACF6, 20)] ∧
    streamInt [(0b10110, 5), (0b00111, 5), (0x2AB, 10)] = streamInt [(0xAACF6, 20)] ∧
    streamLen [(0b10110, 5), (0b00111, 5), (0x2AB, 10)] = streamLen [(0xAACF6, 20)] := by
  unfold WidthsPositive; decide

/-- Also of OnOffMaskPlacesEightFlags and ResetAndRfEnableSetOneBit, which ask no more of the state. -/
theorem test_witness_AttenuationFieldOrRangeErrorOne :
    (idle []).cfg.WF ∧ (idle []).phase = .idle ∧ (15#8).toNat ≤ 15 ∧ 15 < (16#8).toNat :=
  ⟨Config.cfgAlt_wf, rfl, by decide, by decide⟩
theorem test_witness_CommonAttenuationCodeOrRangeErrorThree :
    (idle []).cfg.WF ∧ (idle []).phase = .idle ∧ (0#8).toNat = (idle []).cfg.catt0dB.toNat ∧
    (1#8).toNat = (idle []).cfg.catt8dB.toNat ∧
    ∀ code ∈ [2#8, 3#8, 4#8, 255#8], code.toNat ≠ (idle []).cfg.catt0dB.toNat ∧
      code.toNat ≠ (idle []).cfg.catt8dB.toNat :=
  ⟨Config.cfgAlt_wf, rfl, rfl, rfl, by decide⟩
theorem test_witness_PhaseFieldOrRangeErrorTwo :
    (idle []).cfg.WF ∧ (idle []).phase = .idle ∧ (63#8).toNat ≤ 63 ∧ 63 < (64#8).toNat :=
  ⟨Config.cfgAlt_wf, rfl, by decide, by decide⟩
theorem test_witness_InitEntryTagsThePayload :
    (idle []).cfg.WF ∧ (idle []).phase = .idle ∧ (18#8).toNat < 19 ∧ 19 ≤ (19#8).toNat :=
  ⟨Config.cfgAlt_wf, rfl, by decide, by decide⟩

/-- An encoder operation that ends `ok` gives its value. -/
theorem test_encodesTo_cfgAlt :
    EncodesTo .cfgAlt (.onOffMask 0xA5) (1 * 2 ^ 60 ||| 0xA5 <<< 34) ∧
    EncodesTo .cfgAlt (.attenuation 2 9) (1 * 2 ^ 60 ||| 9 <<< 8) ∧
    EncodesTo .cfgAlt (.commonAttenuation 1) (1 * 2 ^ 60 ||| 1 <<< 32) ∧
    EncodesTo .cfgAlt (.phase 0 63) (2 * 2 ^ 60 ||| 63 <<< 0) ∧
    EncodesTo .cfgAlt (.phase 7 63) (2 * 2 ^ 60 ||| 63 <<< 42) ∧
    EncodesTo .cfgAlt (.reset true) (0 ||| 1 <<< 24) ∧
    EncodesTo .cfgAlt (.rfEnable true) (0 ||| 1 <<< 23) :=
  ⟨⟨_, idle [], _, _, rfl, rfl, rfl, rfl, rfl, rfl, rfl⟩, ⟨_, idle [], _, _, rfl, rfl, rfl, rfl, rfl, rfl, rfl⟩,
    ⟨_, idle [], _, _, rfl, rfl, rfl, rfl, rfl, rfl, rfl⟩, ⟨_, idle [], _, _, rfl, rfl, rfl, rfl, rfl, rfl, rfl⟩,
    ⟨_, idle [], _, _, rfl, rfl, rfl, rfl, rfl, rfl, rfl⟩, ⟨_, idle [], _, _, rfl, rfl, rfl, rfl, rfl, rfl, rfl⟩,
    ⟨_, idle [], _, _, rfl, rfl, rfl, rfl, rfl, rfl, rfl⟩⟩
/-- E3's caller-side combination: a mask, an attenuation and a common attenuation of CFG_ALT; two phases. -/
theorem test_witness_FieldsOfOneRegisterAreDisjoint :
    (∃ (cmds : List EncCmd) (vs : List Nat), Config.cfgAlt.WF ∧ cmds ≠ [] ∧
      (∀ cmd ∈ cmds, cmd.isBW0 = true ∧ CmdLegal .cfgAlt cmd) ∧ cmds.Pairwise DistinctBW0Fields ∧
      List.Forall₂ (EncodesTo .cfgAlt) cmds vs) ∧
    (∃ va vb, (0 : Channel) ≠ 7 ∧ (63#8).toNat ≤ 63 ∧ EncodesTo .cfgAlt (.phase 0 63) va ∧
      EncodesTo .cfgAlt (.phase 7 63) vb) := by
  obtain ⟨h1, h2, h3, h4, h5, -, -⟩ := test_encodesTo_cfgAlt
  refine ⟨⟨[.onOffMask 0xA5, .attenuation 2 9, .commonAttenuation 1], _, Config.cfgAlt_wf, by simp, ?_, ?_,
    .cons h1 (.cons h2 (.cons h3 .nil))⟩, ⟨_, _, by decide, by decide, h4, h5⟩⟩
  · intro cmd h
    simp at h
    rcases h with rfl | rfl | rfl
    · exact ⟨rfl, trivial⟩
    · exact ⟨rfl, by show (9#8).toNat ≤ 15; decide⟩
    · exact ⟨rfl, .inr rfl⟩
  · simp [DistinctBW0Fields]
theorem test_witness_EachValueCarriesOneField : Config.cfgAlt.WF ∧ ∃ v, EncodesTo .cfgAlt (.phase 7 63) v :=
  ⟨Config.cfgAlt_wf, _, test_encodesTo_cfgAlt.2.2.2.2.1⟩
/-- One value for each clause: both commands of a clause may be one command. -/
theorem test_witness_ValuesTellOperandsOnlyWithinOneOperation :
    Config.cfgRef.WF ∧ Config.cfgRef.catt0dB = 0 ∧ EncodesTo .cfgRef (.attenuation 7 0) (0 ||| 0 <<< 28) ∧
    EncodesTo .cfgRef (.commonAttenuation 0) (0 ||| 0 <<< 32) ∧ EncodesTo .cfgRef (.onOffMask 0) (0 ||| 0 <<< 34) ∧
    EncodesTo .cfgRef (.reset false) (0 ||| 0 <<< 24) ∧ EncodesTo .cfgRef (.rfEnable false) (0 ||| 0 <<< 23) ∧
    EncodesTo .cfgRef (.phase 7 0) (2 ^ 48 ||| 0 <<< 42) ∧ EncodesTo .cfgRef (.phase 7 1) (2 ^ 48 ||| 1 <<< 42) :=
  ⟨Config.cfgRef_wf, rfl, ⟨_, State.resetOf .cfgRef, _, _, rfl, rfl, rfl, rfl, rfl, rfl, rfl⟩,
    ⟨_, State.resetOf .cfgRef, _, _, rfl, rfl, rfl, rfl, rfl, rfl, rfl⟩,
    ⟨_, State.resetOf .cfgRef, _, _, rfl, rfl, rfl, rfl, rfl, rfl, rfl⟩,
    ⟨_, State.resetOf .cfgRef, _, _, rfl, rfl, rfl, rfl, rfl, rfl, rfl⟩,
    ⟨_, State.resetOf .cfgRef, _, _, rfl, rfl, rfl, rfl, rfl, rfl, rfl⟩,
    ⟨_, State.resetOf .cfgRef, _, _, rfl, rfl, rfl, rfl, rfl, rfl, rfl⟩,
    ⟨_, State.resetOf .cfgRef, _, _, rfl, rfl, rfl, rfl, rfl, rfl, rfl⟩⟩
/-- Also of OutcomeDependsOnOperandsAndConfigurationOnly and OperationsWriteOnlyWhatTheyList: the two states differ in
every register an earlier SEND writes. -/
theorem test_witness_EncodingTwiceGivesTheSamePacket :
    ∃ (s : State) (s' : State) (t : State) (t' : State), (Instr.phase 2 33).isEncoder = true ∧ s.cfg = s'.cfg ∧ s.phase = .idle ∧ s'.phase = .idle ∧
      s.trace ≠ s'.trace ∧ exec (.phase 2 33) s = .next t ∧ exec (.phase 2 33) s' = .next t' ∧ t.done = true :=
  ⟨State.resetOf .cfgRef, { linePending true [] with phase := .idle, outstanding := none, done := true }, _, _, rfl,
    rfl, rfl, rfl, by decide, rfl, rfl, rfl⟩

/-- Frames that differ above bit 45 only: T4's and T5's words. -/
theorem test_witness_TelemetryIgnoresBitsAboveFortyFive :
    WordsBelow 10 [0x03F, 0x3FF, 0x3FF, 0x3FF, 0x3FF] ∧ WordsBelow 10 [0x3FF, 0x3FF, 0x3FF, 0x3FF, 0x3FF] ∧
    ∀ i < 46, replyBit 10 [0x03F, 0x3FF, 0x3FF, 0x3FF, 0x3FF] i = replyBit 10 [0x3FF, 0x3FF, 0x3FF, 0x3FF, 0x3FF] i := by
  unfold WordsBelow; decide +kernel
/-- T2's frame in five words, and with every bit from 46 to 49 added. -/
theorem test_witness_EveryFrameCanBeSentAndDecoded :
    frameInt ⟨23, 1, 2, 3, 4, 5, 6, 7, 31⟩ + 0 * 2 ^ 46 < 2 ^ (5 * 10) ∧
    frameInt ⟨63, 31, 31, 31, 31, 31, 31, 31, 31⟩ + 15 * 2 ^ 46 < 2 ^ (5 * 10) := by decide +kernel

theorem test_witness_ModeLineValueIsTheModeNumber :
    (idle []).phase = .idle ∧ (∀ m ∈ [0#2, 1#2, 2#2], m ≠ 3#2) := by decide
theorem test_witness_SendAcceptanceChecksThenWritesTheLine :
    (idle []).cfg.WF ∧ (idle []).phase = .idle ∧ 2#2 ≠ 3#2 ∧
    (∀ cmd ∈ [.onOffMask 255, .attenuation 7 15, .commonAttenuation 1, .phase 7 63, .reset true, .rfEnable true,
      .initEntry 18 0], CmdLegal (idle []).cfg cmd) ∧
    (∀ cmd ∈ [.attenuation 0 16, .commonAttenuation 2, .phase 0 64, .initEntry 19 0, .reserved 1],
      ¬ CmdLegal (idle []).cfg cmd) := by
  refine ⟨Config.cfgAlt_wf, rfl, by decide, ?_, ?_⟩ <;>
    simp [CmdLegal, idle, State.resetOf, Config.cfgAlt, Config.cfgRef]
/-- Each KIND of an encoder at an operand it refuses where it has one, and one legal command. -/
theorem test_witness_SendRunsTheEncoderKindNames :
    (∀ kind ∈ [2, 3, 4, 5, 6, 7, 8], ∃ (s : State) (p : Port), s.cfg.WF ∧ s.phase = .idle ∧ s.presented = true ∧
      s.resetNext = false ∧ s.port = some p ∧ p.op = 0xB#4 ∧ p.mode ≠ 3#2 ∧ p.kind = BitVec.ofNat 4 kind ∧
      2 ≤ p.kind.toNat ∧ p.kind.toNat ≤ 8) ∧
    (∃ p i, encodeCommand (decodeKind p) = some i ∧ p.kind = 0x8#4) := by
  constructor
  · intro kind h
    refine ⟨presenting .cfgAlt { Port.zero with op := 0xB, kind := BitVec.ofNat 4 kind, level := 64, index := 19 }, _,
      Config.cfgAlt_wf, rfl, rfl, rfl, rfl, rfl, fun h => absurd (congrArg BitVec.toNat h) (by decide : ¬ 0 = 3), rfl, ?_⟩
    revert kind; decide
  · exact ⟨{ Port.zero with kind := 0x8 }, _, rfl, rfl⟩
theorem test_witness_LineOkIssuesTheExchange :
    ∃ (s : State) (l : Latch) (q : Request) (id : Nat) (rest : List Input), s.cfg.WF ∧ s.phase = .linePending ∧ s.latch = some l ∧ s.outstanding = some q ∧
      s.trace.length = id + 1 ∧ s.inputs = .answer id .lineOk :: rest :=
  ⟨linePending true [.answer 0 .lineOk], _, _, 0, _, Config.cfgRef_wf, rfl, rfl, rfl, rfl, rfl⟩
theorem test_witness_LineFailureAbortsTheCommand :
    ∃ (s : State) (q : Request) (e : TransportError) (id : Nat) (rest : List Input), s.cfg.WF ∧ s.phase = .linePending ∧ s.outstanding = some q ∧ s.trace.length = id + 1 ∧
      s.inputs = .answer id (.lineFail e) :: rest :=
  ⟨linePending true [.answer 0 (.lineFail ⟨1⟩)], _, _, 0, _, Config.cfgRef_wf, rfl, rfl, rfl, rfl⟩
/-- A reply expected and one not, an empty one among them. -/
theorem test_witness_ExchangeOkCapturesAndDecodesTheReply :
    ∀ e, ∀ reply ∈ [[0x3FF], []], ∃ (s : State) (l : Latch) (q : Request) (id : Nat) (rest : List Input), s.cfg.WF ∧ s.phase = .xferPending ∧ s.latch = some l ∧
      l.expect = e ∧ s.outstanding = some q ∧ s.trace.length = id + 1 ∧ s.inputs = .answer id (.xferOk reply) :: rest ∧
      WordsBelow s.cfg.W reply := by
  intro e reply h
  refine ⟨xferPending e [.answer 1 (.xferOk reply)], _, _, 1, _, Config.cfgRef_wf, rfl, rfl, rfl, rfl, rfl, rfl, ?_⟩
  show WordsBelow 10 reply
  simp at h
  rcases h with rfl | rfl <;> simp [WordsBelow]
theorem test_witness_ExchangeFailureIsReportedAtStageOne :
    ∃ (s : State) (q : Request) (e : TransportError) (id : Nat) (rest : List Input), s.cfg.WF ∧ s.phase = .xferPending ∧ s.outstanding = some q ∧ s.trace.length = id + 1 ∧
      s.inputs = .answer id (.xferFail e) :: rest :=
  ⟨xferPending true [.answer 1 (.xferFail ⟨1⟩)], _, _, 1, _, Config.cfgRef_wf, rfl, rfl, rfl, rfl⟩
theorem test_witness_SendCompletesInThreeSteps :
    ∃ p mode cmd n reply rest, sendS2.cfg.WF ∧ sendS2.phase = .idle ∧ sendS2.presented = true ∧
      sendS2.port = some p ∧ decode p = .ok (.send mode cmd true n) ∧ mode ≠ 3#2 ∧ CmdLegal sendS2.cfg cmd ∧
      WordsBelow sendS2.cfg.W reply ∧
      sendS2.inputs = .answer sendS2.trace.length .lineOk :: .answer (sendS2.trace.length + 1) (.xferOk reply) :: rest :=
  ⟨_, _, _, _, _, _, Config.cfgRef_wf, rfl, rfl, rfl, rfl, by decide, by show (9#8).toNat ≤ 15; decide,
    by show WordsBelow 10 [0, 0, 0, 0, 0, 23]; unfold WordsBelow; decide, rfl⟩
theorem test_witness_WhatIsKnownOfTheLine :
    (∃ (s : State) (t : State) (v : BitVec 2) (id : Nat) (rest : List Input), s.Inv ∧ s.busy = true ∧
      s.trace.length = id + 1 ∧ step s = .next t ∧ s.outstanding = some (.line v) ∧
      s.inputs = .answer id .lineOk :: rest) ∧
    (∃ (s : State) (t : State) (id : Nat) (rest : List Input) (e : TransportError), s.Inv ∧ s.busy = true ∧
      s.trace.length = id + 1 ∧ step s = .next t ∧ s.inputs = .answer id (.lineFail e) :: rest) ∧
    (∃ (s : State) (t : State) (id : Nat) (rest : List Input) (e : TransportError), s.Inv ∧ s.busy = true ∧
      s.trace.length = id + 1 ∧ step s = .next t ∧ s.inputs = .answer id (.xferFail e) :: rest ∧ s.line = some 1) :=
  ⟨⟨linePending true [.answer 0 .lineOk], _, _, 0, _, test_inv_linePending _ _, rfl, rfl, rfl, rfl, rfl⟩,
    ⟨linePending true [.answer 0 (.lineFail ⟨1⟩)], _, 0, _, _, test_inv_linePending _ _, rfl, rfl, rfl, rfl⟩,
    ⟨xferPending true [.answer 1 (.xferFail ⟨1⟩)], _, 1, _, _, test_inv_xferPending _ _, rfl, rfl, rfl, rfl, rfl⟩⟩
/-- Its third clause has the hypotheses of StepRunsThePresentedOperation. -/
theorem test_witness_OperationIsHeldWhileBusy :
    (linePending true []).phase ≠ .idle ∧
    (∃ (s : State) (t : State) (id : Nat) (r : Response) (rest : List Input), s.phase ≠ .idle ∧ s.inputs = .answer id r :: rest ∧ step s = .next t ∧ s.presented = true) ∧
    (∃ t, (Instr.modeLineValue 1).isSend = false ∧ (idle []).phase = .idle ∧
      exec (.modeLineValue 1) (idle []) = .next t) :=
  ⟨by decide,
    ⟨{ linePending true [.answer 0 .lineOk] with presented := true, port := some .zero }, _, 0, _, _, by decide, rfl,
      rfl, rfl⟩,
    ⟨_, rfl, rfl, rfl⟩⟩
/-- The caller's writes, and an answer to an earlier request. -/
theorem test_witness_SendWaitsForItsResponse :
    ((linePending true []).cfg.WF ∧ (linePending true []).phase ≠ .idle ∧ (linePending true []).inputs = []) ∧
    (∃ (s : State) (t : State) (rest : List Input), s.phase ≠ .idle ∧ s.inputs = .present .zero :: rest ∧ step s = .next t) ∧
    (∃ (s : State) (t : State) (rest : List Input), s.phase ≠ .idle ∧ s.inputs = .answer 0 .lineOk :: rest ∧ 0 + 1 ≠ s.trace.length ∧ step s = .next t) :=
  ⟨⟨Config.cfgRef_wf, by decide, rfl⟩, ⟨linePending true [.present .zero], _, _, by decide, rfl, rfl⟩,
    ⟨xferPending true [.answer 0 .lineOk], _, _, by decide, rfl, by decide, rfl⟩⟩
/-- The four ways phase and TRACE move, the return to IDLE by an answer and by the reset. -/
theorem test_witness_PhaseAndTraceMoveOnlyBySendStepsAndReset :
    (∃ t, step sendS2 = .next t ∧ t.phase = .linePending) ∧
    (∃ t, step (linePending true [.answer 0 .lineOk]) = .next t ∧ t.phase = .xferPending) ∧
    (∃ t, step (xferPending true [.answer 1 (.xferFail ⟨1⟩)]) = .next t ∧ t.phase = .idle) ∧
    (∃ t, step (linePending true [.reset]) = .next t ∧ t.phase = .idle) ∧
    (∃ t, step (idle [.drive .zero]) = .next t ∧ t.phase = .idle) :=
  ⟨⟨_, rfl, rfl⟩, ⟨_, rfl, rfl⟩, ⟨_, rfl, rfl⟩, ⟨_, rfl, rfl⟩, ⟨_, rfl, rfl⟩⟩
/-- Nothing to come, and a late answer. -/
theorem test_witness_IdleWaitsForAnOperation :
    ((idle []).cfg.WF ∧ (idle []).phase = .idle ∧ (idle []).acceptable = none ∧ (idle []).inputs = []) ∧
    (∃ t, (idle [.answer 0 .lineOk]).phase = .idle ∧ (idle [.answer 0 .lineOk]).acceptable = none ∧
      step (idle [.answer 0 .lineOk]) = .next t) :=
  ⟨⟨Config.cfgAlt_wf, rfl, rfl, rfl⟩, ⟨_, rfl, rfl, rfl⟩⟩
theorem test_witness_OperandChangesDoNotReachASendInProgress :
    ∃ (s : State) (t : State) (id : Nat) (r : Response) (rest : List Input), s.phase ≠ .idle ∧ s.inputs = .answer id r :: rest ∧ step s = .next t :=
  ⟨xferPending true [.answer 1 (.xferOk [23])], _, 1, _, _, by decide, rfl, rfl⟩
/-- A pure operation and a SEND. -/
theorem test_witness_OperationsWriteOnlyWhatTheyList :
    (∃ t, (idle []).phase = .idle ∧ exec (.unpack [7] 3) (idle []) = .next t ∧ (Instr.unpack [7] 3).isSend = false) ∧
    (∃ t, exec (.send 2 (.reset true) false 7) (idle []) = .next t ∧ t.phase = .linePending) :=
  ⟨⟨_, rfl, rfl, rfl⟩, ⟨_, rfl, rfl⟩⟩
theorem test_witness_OtherStepsKeepTheResults :
    (∃ (s : State) (t : State) (i : Input) (rest : List Input), s.acceptable = none ∧ s.inputs = i :: rest ∧ i ≠ .reset ∧ step s = .next t ∧
      t.results ≠ s.results) ∧
    (idle []).results.frame = none ∧ (∃ (s : State) (f : Frame), s.results.frame = some f) :=
  ⟨⟨xferPending true [.answer 1 (.xferOk [23])], _, _, _, rfl, rfl, by decide, rfl, by decide +kernel⟩, rfl,
    ⟨{ idle [] with results := { frame := some ⟨1, 0, 0, 0, 0, 0, 0, 0, 0⟩ } }, _, rfl⟩⟩
/-- The state S9 ends in, and one that ended ok. -/
theorem test_witness_CallerReadsTheCodes :
    (∃ s : State, s.Inv ∧ s.readPhase = 0 ∧ s.readStErr = 3) ∧ (∃ s : State, s.Inv ∧ s.readPhase = 0 ∧ s.done = true) := by
  refine ⟨⟨{ State.resetOf .cfgRef with
      err := true, status := { code := .transportFailure, info := 0, stage := 0, tf := some ⟨41⟩ } }, ?_, rfl, rfl⟩,
    ⟨{ State.resetOf .cfgRef with done := true }, ?_, rfl, rfl⟩⟩
  · refine ⟨Config.cfgRef_wf, rfl, ?_, ⟨rfl, by simp⟩, ?_, ?_, ?_⟩ <;>
      simp [FlagsOk, State.busy, State.resetOf, Results.Valid, Results.empty, WellSequenced]
  · refine ⟨Config.cfgRef_wf, rfl, ?_, ⟨rfl, rfl⟩, ?_, ?_, ?_⟩ <;>
      simp [FlagsOk, State.busy, State.resetOf, Results.Valid, Results.empty, WellSequenced, Status.reset]
theorem test_witness_ValidationErrorsLeaveNoEffect :
    (∃ t, (idle []).phase = .idle ∧ exec (.attenuation 0 16) (idle []) = .next t ∧ t.err = true) ∧
    (∃ t, exec (.pack [(1, 0)] 10 false) (idle []) = .next t ∧ t.err = true) ∧
    (∃ t, exec (.send 1 (.reserved 0) false 0) (idle []) = .next t ∧ t.err = true) :=
  ⟨⟨_, rfl, rfl, rfl⟩, ⟨_, rfl, rfl⟩, ⟨_, rfl, rfl⟩⟩
theorem test_witness_OutcomeDependsOnOperandsAndConfigurationOnly :
    ∃ (s : State) (s' : State) (t : State) (t' : State), s.cfg = s'.cfg ∧ s.phase = .idle ∧ s'.phase = .idle ∧ s.status ≠ s'.status ∧
      exec (.send 1 (.reset true) false 7) s = .next t ∧ exec (.send 1 (.reset true) false 7) s' = .next t' :=
  ⟨idle [], { idle [] with err := true, status := { code := .rangeError, info := 4, stage := 0, tf := none } }, _, _,
    rfl, rfl, rfl, by decide, rfl, rfl⟩
theorem test_witness_PseudoOperationsExpandInOrder : (18 : Nat) < 19 := by decide

end Sys2Proof.Tests
end

section
/-! SUPPORT. Proofs of the statements about one step of CORE: every operation goes on, what a step in IDLE runs and what
it refuses, the invariant that every step keeps, and the stops a state that meets it can come to. -/

namespace Sys2Proof.Machine

/-! ### Every operation goes on (R14, R171) -/

theorem continues_next (t : State) : Continues (.next t) := ⟨t, rfl⟩

theorem State.accepting_continues (s : State) (k : State → State) : Continues (s.accepting k) := by
  rcases s.accepting_cases k with ⟨-, h⟩ | ⟨-, h⟩
  · exact ⟨_, h⟩
  · exact ⟨_, h⟩

theorem State.runPure_continues (s : State) (r : Except Err Effect) : Continues (s.runPure r) := by
  unfold State.runPure
  exact s.accepting_continues _

theorem execSend_continues (mode : BitVec 2) (cmd : EncCmd) (expectReply : Bool) (readLen : Nat) (s : State) :
    Continues (execSend mode cmd expectReply readLen s) := by
  unfold execSend
  exact s.accepting_continues _

theorem execReservedOp_continues (s : State) : Continues (execReservedOp s) := s.runPure_continues _

/-- Settles O49: a pure operation and a SEND are both an acceptance, and an acceptance always goes on. -/
theorem everyOperationContinues : Obligations.EveryOperationContinues := by
  intro i s
  cases hp : pureOp s.cfg i with
  | some r =>
    rw [exec_pure hp]
    exact s.runPure_continues r
  | none =>
    cases i with
    | send mode cmd expectReply readLen => exact execSend_continues mode cmd expectReply readLen s
    | _ => simp [pureOp] at hp

/-! ### What a step in IDLE runs, and what it refuses (R66, U12, U13) -/

theorem acceptPort_wellFormed {p : Port} {i : Instr} (hd : decode p = .ok i) (hw : i.wellFormed = true) (s : State) :
    acceptPort p s = exec i s := by
  simp [acceptPort, hd, hw]

theorem acceptPort_illTyped {p : Port} {i : Instr} (hd : decode p = .ok i) (hw : i.wellFormed = false) (s : State) :
    acceptPort p s = .refused .illTypedOperand := by
  simp [acceptPort, hd, hw]

theorem acceptPort_reserved {p : Port} {e : DecodeReject} (hd : decode p = .error e) (s : State) :
    acceptPort p s = execReservedOp s := by
  simp [acceptPort, hd]

theorem step_illFormed {s : State} (h : ¬ s.cfg.WF) : step s = .refused .illFormedConfiguration := by
  rw [← Config.wellFormed_iff] at h
  simp [step, h]

theorem wordsFit_iff {words : List TransportWord} {W : Nat} :
    wordsFit words W = true ↔ W = 0 ∨ WordsBelow W words := by
  simp [wordsFit, WordsBelow]

theorem wordsFit_eq_false_iff {words : List TransportWord} {W : Nat} :
    wordsFit words W = false ↔ W ≠ 0 ∧ ¬ WordsBelow W words := by
  rw [← Bool.not_eq_true, wordsFit_iff, not_or]

/-- `reserved` is read from the KINDs that name no encoder only (R89). -/
theorem decodeKind_wellFormed (p : Port) : (decodeKind p).wellFormed = true := by
  unfold decodeKind
  split
  case h_8 =>
    simp only [imp_false] at *
    simp only [EncCmd.wellFormed, kindNamesEncoder, Bool.not_eq_true', Bool.and_eq_false_iff, decide_eq_false_iff_not]
    omega
  all_goals rfl

theorem decode_send {p : Port} {mode : BitVec 2} {cmd : EncCmd} {expectReply : Bool} {readLen : Nat}
    (h : decode p = .ok (.send mode cmd expectReply readLen)) : cmd = decodeKind p := by
  unfold decode at h
  split at h <;> cases h
  rfl

/-- Settles O4: the operation is acceptable, and accepting a well-typed one is its `exec`. -/
theorem stepRunsThePresentedOperation : Obligations.StepRunsThePresentedOperation := by
  intro s p i hc hi hp hr hport hd hw
  rw [step_accept hc (State.acceptable_some.mpr ⟨hi, hp, hr, hport⟩), acceptPort_wellFormed hd hw]

/-- Settles O6: `wordsFit` says when, `acceptPort` and `step` by which name. -/
theorem illTypedInputIsRefused : Obligations.IllTypedInputIsRefused := by
  refine ⟨?_, fun words W => ⟨wordsFit_eq_false_iff, wordsFit_eq_false_iff⟩, ?_, fun s => step_illFormed⟩
  · intro s p i hc hi hp hr hport hd hw
    rw [step_accept hc (State.acceptable_some.mpr ⟨hi, hp, hr, hport⟩), acceptPort_illTyped hd hw]
  · intro p i hd hu ht
    cases i with
    | unpack => cases hu
    | decodeTelemetry => cases ht
    | send mode cmd expectReply readLen => exact decode_send hd ▸ decodeKind_wellFormed p
    | _ => rfl

/-! ### The values operations write fit their widths (R11, R28, R60, R81) -/

theorem fieldValue_valid {tag field offset w : Nat} (ht : tag < 2 ^ 64) (hf : field < 2 ^ w) (hw : w + offset ≤ 64) :
    (fieldValue tag field offset).Valid := by
  have hfield : field <<< offset < 2 ^ 64 :=
    lt_of_lt_of_le (Nat.shiftLeft_lt hf) (Nat.pow_le_pow_right (by omega) hw)
  exact ⟨by simp [fieldValue, regWidth], Nat.or_lt_two_pow ht hfield⟩

/-- An INIT tag lies under its mask, so inside INIT_WIDTH bits (R9 (e)). -/
theorem initTagOf_lt {c : Config} (hc : c.WF) (n : Nat) : initTagOf c n < 2 ^ c.initWidth := by
  obtain ⟨-, hmask, htags⟩ := hc.initTags
  unfold initTagOf
  cases hn : c.initTag[n]? with
  | none => exact Nat.two_pow_pos _
  | some t =>
    have hmem : t ∈ c.initTag.toList := by simpa using Vector.mem_of_getElem? hn
    have hle : t ≤ c.initTagMask := htags t hmem ▸ Nat.left_le_or
    exact lt_of_le_of_lt hle hmask

/-- Every value an encoder builds fits its declared width (R11, R71, R77). -/
theorem buildCmd_valid {c : Config} (hc : c.WF) {cmd : EncCmd} {lv : LogicalValue} (h : buildCmd c cmd = .ok lv) :
    lv.Valid := by
  obtain ⟨hbw0, -⟩ := hc.tagBW0
  obtain ⟨hbw1, -⟩ := hc.tagBW1
  cases cmd with
  | onOffMask en =>
    cases h
    exact fieldValue_valid (w := 8) hbw0 en.isLt (by decide)
  | attenuation ch level =>
    simp only [buildCmd, buildAttenuation] at h
    split at h <;> cases h
    next hlevel =>
      obtain ⟨-, hoff⟩ := hc.att_mem ch
      unfold attMax at hlevel
      exact fieldValue_valid (w := 4) hbw0 (by omega) (by unfold attOffset; omega)
  | commonAttenuation level =>
    simp only [buildCmd, buildCommonAttenuation] at h
    split at h <;> cases h
    exact fieldValue_valid (w := 8) hbw0 level.isLt (by decide)
  | phase ch level =>
    simp only [buildCmd, buildPhase] at h
    split at h <;> cases h
    next hlevel =>
      obtain ⟨-, hoff⟩ := hc.ph_mem ch
      unfold phMax at hlevel
      exact fieldValue_valid (w := 6) hbw1 (by omega) (by unfold phOffset; omega)
  | reset a =>
    cases h
    exact fieldValue_valid (w := 1) (by decide) a.toNat_lt (by decide)
  | rfEnable a =>
    cases h
    exact fieldValue_valid (w := 1) (by decide) a.toNat_lt (by decide)
  | initEntry index payload =>
    simp only [buildCmd, buildInitEntry] at h
    split at h <;> cases h
    obtain ⟨hw, -, -⟩ := hc.initTags
    have hpayload : payload.toNat < 2 ^ c.initWidth :=
      lt_of_lt_of_le payload.isLt (Nat.pow_le_pow_right (by omega) hw)
    exact ⟨by simp only; omega,
      Nat.or_lt_two_pow (lt_of_le_of_lt Nat.and_le_left hpayload) (initTagOf_lt hc _)⟩
  | reserved k => cases h

/-- A framed packet is of CFG.W-bit words (R60, R121). -/
theorem frameLv_below {c : Config} (hc : c.WF) (lv : LogicalValue) : WordsBelow c.W (frameLv c lv).out := by
  rw [frameLv, packLoop_out hc.wordWidth]
  exact packetOf_below _ _ _ _

theorem unpackOp_valid {words : List TransportWord} {W W' : Nat} {e : Effect} (hw : wordsFit words W = true)
    (h : unpackOp words W = .ok e) : e.results.Valid W' := by
  unfold unpackOp at h
  split at h
  · cases h
  · next hcheck =>
    have hW : W ≠ 0 := by rintro rfl; cases hcheck
    have hbelow : WordsBelow W words := (wordsFit_iff.mp hw).resolve_left hW
    cases h
    simpa [Results.Valid, unpackWords_eq hbelow] using wordsInt_lt hbelow

theorem encoderOp_valid {c : Config} (hc : c.WF) {cmd : EncCmd} {e : Effect}
    (h : encoderOp c (buildCmd c cmd) = .ok e) : e.results.Valid c.W := by
  obtain ⟨lv, hb, rfl⟩ := encoderOp_ok h
  simpa [Results.Valid] using buildCmd_valid hc hb

/-- The values a well-typed pure operation writes are of their registers' types (R28). -/
theorem pureOp_valid {c : Config} (hc : c.WF) {i : Instr} (hw : i.wellFormed = true) {e : Effect}
    (h : pureOp c i = some (.ok e)) : e.results.Valid c.W := by
  cases he : i.isEncoder with
  | true =>
    obtain ⟨cmd, -, hcmd⟩ := encoder_pureOp (c := c) he
    rw [hcmd, Option.some.injEq] at h
    exact encoderOp_valid hc h
  | false =>
    cases i with
    | pack values W be =>
      simp only [pureOp, Option.some.injEq, packOp] at h
      split at h <;> cases h
      simp [Results.Valid]
    | unpack words W =>
      rw [pureOp, Option.some.injEq] at h
      exact unpackOp_valid hw h
    | decodeTelemetry words W =>
      simp only [pureOp, Option.some.injEq, telemetryOp] at h
      split at h <;> cases h
      simp [Results.Valid]
    | modeLineValue mode =>
      simp only [pureOp, Option.some.injEq, modeLineOp] at h
      split at h
      · cases h
      · next v hv =>
        cases h
        obtain ⟨hm, rfl⟩ := lineOf_ok.mp hv
        simpa [Results.Valid] using hm
    | send => cases h
    | _ => cases he

theorem Results.write_valid {W : Nat} {old new : Results} (ho : old.Valid W) (hn : new.Valid W) :
    (old.write new).Valid W := by
  obtain ⟨olv, oint, oreply, oline⟩ := ho
  obtain ⟨nlv, nint, nreply, nline⟩ := hn
  refine ⟨fun x hx => ?_, fun x hx => ?_, fun x hx => ?_, fun x hx => ?_⟩ <;>
    rcases Option.or_eq_some_iff.mp hx with hx | ⟨-, hx⟩
  · exact nlv x hx
  · exact olv x hx
  · exact nint x hx
  · exact oint x hx
  · exact nreply x hx
  · exact oreply x hx
  · exact nline x hx
  · exact oline x hx

/-! ### The errors CORE raises (R191 to R194) -/

/-- An error whose code, info, stage and report are those of some rule. -/
def Err.Valid (e : Err) : Prop :=
  e.code ≠ .none ∧ Status.Valid { code := e.code, info := e.info, stage := e.stage, tf := e.tf }

theorem Err.range_valid {n : Nat} (h1 : 1 ≤ n) (h6 : n ≤ 6) : (Err.range n).Valid :=
  ⟨by simp [Err.range], h1, h6, rfl⟩

theorem Err.width_valid (n : Nat) : (Err.width n).Valid := ⟨by simp [Err.width], rfl⟩

theorem Err.transport_valid (stage : BitVec 1) (e : TransportError) : (Err.transport stage e).Valid :=
  ⟨by simp [Err.transport], rfl, by simp [Err.transport]⟩

theorem pureOp_error_valid {c : Config} {i : Instr} {e : Err} (h : pureOp c i = some (.error e)) : e.Valid := by
  rcases pureOp_error h with ⟨n, h1, h6, rfl⟩ | ⟨n, rfl⟩
  · exact Err.range_valid h1 h6
  · exact Err.width_valid n

theorem sendPrepare_error_valid {c : Config} {mode : BitVec 2} {cmd : EncCmd} {e : Err}
    (h : sendPrepare c mode cmd = .error e) : e.Valid := by
  obtain ⟨n, h1, h6, rfl⟩ := sendPrepare_error h
  exact Err.range_valid h1 h6

/-- The status a raised error leaves is valid, whatever report ST_TF held before. -/
theorem State.raise_status_valid (s : State) {e : Err} (h : e.Valid) : (s.raise e).status.Valid := by
  obtain ⟨-, hst⟩ := h
  rw [State.raise_status]
  unfold Status.Valid at hst ⊢
  split at hst <;> simp_all

/-! ### TRACE (R31, R178) -/

/-- A Line may always be issued, an Xfer directly after a Line. -/
theorem wellSequenced_append {events : List Request} {r : Request} (h : WellSequenced events)
    (hr : ∀ words n, r = .xfer words n → ∃ v, events.getLast? = some (.line v)) :
    WellSequenced (events ++ [r]) := by
  intro k words n hk
  rcases Nat.lt_trichotomy k events.length with hlt | rfl | hgt
  · rw [List.getElem?_append_left hlt] at hk
    obtain ⟨hpos, v, hv⟩ := h k words n hk
    exact ⟨hpos, v, by rw [List.getElem?_append_left (by omega), hv]⟩
  · rw [List.getElem?_concat_length, Option.some.injEq] at hk
    obtain ⟨v, hv⟩ := hr words n hk
    have hpos : 0 < events.length := List.length_pos_iff.mpr (by rintro rfl; cases hv)
    refine ⟨hpos, v, ?_⟩
    rw [List.getElem?_append_left (by omega), ← List.getLast?_eq_getElem?, hv]
  · rw [List.getElem?_eq_none (by simp; omega)] at hk
    cases hk

/-! ### The invariant, operation by operation -/

/-- The clauses of the invariant in which phase, flags and status have no part: what every operation has to keep, and
all that is left to keep when one ends. -/
structure State.DataOk (s : State) : Prop where
  config : s.cfg.WF
  results : s.results.Valid s.cfg.W
  sequenced : WellSequenced s.trace
  events : ∀ e ∈ s.trace, e.Valid s.cfg.W

theorem State.Inv.dataOk {s : State} (h : s.Inv) : s.DataOk := ⟨h.config, h.results, h.sequenced, h.events⟩

theorem State.DataOk.accept {s : State} (h : s.DataOk) : s.accept.DataOk :=
  ⟨h.config, h.results, h.sequenced, h.events⟩

theorem State.DataOk.store {s : State} {e : Effect} (h : s.DataOk) (he : e.results.Valid s.cfg.W) :
    (s.store e).DataOk :=
  ⟨h.config, Results.write_valid h.results he, h.sequenced, h.events⟩

theorem State.DataOk.issue {s : State} {r : Request} (h : s.DataOk) (hr : r.Valid s.cfg.W)
    (hx : ∀ words n, r = .xfer words n → ∃ v, s.trace.getLast? = some (.line v)) : (s.issue r).DataOk where
  config := h.config
  results := h.results
  sequenced := wellSequenced_append h.sequenced hx
  events e he := by
    rcases List.mem_append.mp he with he | he
    · exact h.events e he
    · obtain rfl := List.mem_singleton.mp he
      exact hr

/-- An operation that ends `ok` ends in a state that meets the invariant. -/
theorem State.DataOk.endOk {s : State} (h : s.DataOk) (herr : s.err = false) : s.endOk.Inv where
  config := h.config
  sequencer := rfl
  flags := by simp [FlagsOk, State.busy, herr]
  status := ⟨rfl, rfl⟩
  results := h.results
  sequenced := h.sequenced
  events := h.events

/-- So does one that ends in an error. -/
theorem State.DataOk.raise {s : State} {e : Err} (h : s.DataOk) (hdone : s.done = false) (he : e.Valid) :
    (s.raise e).Inv where
  config := h.config
  sequencer := rfl
  flags := by simp [FlagsOk, State.busy, hdone, he.1]
  status := s.raise_status_valid he
  results := h.results
  sequenced := h.sequenced
  events := h.events

/-- The reset input, whatever it interrupts. -/
theorem State.DataOk.applyReset {s : State} (h : s.DataOk) : s.applyReset.Inv where
  config := h.config
  sequencer := rfl
  flags := by simp [FlagsOk, State.busy, State.applyReset, State.resetOf, Status.reset]
  status := ⟨rfl, rfl⟩
  results := by simp [Results.Valid, State.applyReset, State.resetOf, Results.empty]
  sequenced := h.sequenced
  events := h.events

/-- The invariant does not speak of the operand registers, the line and what is to come. -/
theorem State.Inv.outside {s : State} (h : s.Inv) (port : Option Port) (presented : Bool) (line : Option (BitVec 2))
    (inputs : List Input) :
    State.Inv { s with port := port, presented := presented, line := line, inputs := inputs } :=
  ⟨h.config, h.sequencer, h.flags, h.status, h.results, h.sequenced, h.events⟩

theorem State.Inv.linePending {s : State} (h : s.Inv) (hp : s.phase = .linePending) :
    ∃ l v, s.latch = some l ∧ s.outstanding = some (.line v) ∧ s.trace.getLast? = some (.line v) ∧
      s.results.line = some v ∧ s.results.packet = some l.packet ∧ WordsBelow s.cfg.W l.packet := by
  simpa only [SequencerOk, hp] using h.sequencer

theorem State.Inv.xferPending {s : State} (h : s.Inv) (hp : s.phase = .xferPending) :
    ∃ l, s.latch = some l ∧ s.outstanding = some (.xfer l.packet l.readLen) ∧
      s.trace.getLast? = some (.xfer l.packet l.readLen) ∧ s.results.packet = some l.packet := by
  simpa only [SequencerOk, hp] using h.sequencer

theorem State.Inv.idle {s : State} (h : s.Inv) (hp : s.phase = .idle) : s.outstanding = none := by
  simpa only [SequencerOk, hp] using h.sequencer

/-- DONE and ERR are clear while a SEND is in progress (R26). -/
theorem State.Inv.flags_of_busy {s : State} (h : s.Inv) (hp : s.phase ≠ .idle) : s.done = false ∧ s.err = false :=
  h.flags.2.1 (s.busy_iff.mpr hp)

/-- The acceptance of a SEND whose checks pass (R172). -/
theorem State.Inv.startSend {s : State} (h : s.Inv) {v : BitVec 2} {lv : LogicalValue} (hv : v ≠ 3#2)
    (hlv : lv.Valid) (expectReply : Bool) (readLen : Nat) :
    (s.accept.startSend v lv expectReply readLen).Inv := by
  have hresults : Results.Valid s.cfg.W
      { lv := some lv, packet := some (frameLv s.cfg lv).out, line := some v } := by
    simpa [Results.Valid] using ⟨hlv, hv⟩
  obtain ⟨hconfig, hres, hseq, hev⟩ :=
    (h.dataOk.accept.store (e := ⟨_, some (frameLv s.cfg lv)⟩) hresults).issue (r := .line v) hv (by simp)
  refine ⟨hconfig, ?_, ?_, h.status, hres, hseq, hev⟩
  · exact ⟨_, v, rfl, rfl, List.getLast?_concat, rfl, rfl, frameLv_below h.config lv⟩
  · simp [FlagsOk, State.busy]

/-- Every well-typed operation keeps the invariant. -/
theorem exec_keeps_inv {i : Instr} {s t : State} (h : s.Inv) (hw : i.wellFormed = true) (he : exec i s = .next t) :
    t.Inv := by
  rcases exec_cases he with ⟨-, rfl⟩ | ⟨-, -, e, hop, rfl⟩ | ⟨-, -, e, hop, rfl⟩ |
    ⟨-, m, cmd, er, n, -, e, hsend, rfl⟩ | ⟨-, m, cmd, er, n, -, v, lv, hsend, rfl⟩
  · exact h
  · exact (h.dataOk.accept.store (pureOp_valid h.config hw hop)).endOk rfl
  · exact h.dataOk.accept.raise rfl (pureOp_error_valid hop)
  · exact h.dataOk.accept.raise rfl (sendPrepare_error_valid hsend)
  · obtain ⟨hm, rfl, hbuild⟩ := sendPrepare_ok.mp hsend
    exact h.startSend hm (buildCmd_valid h.config hbuild) er n

/-- A reserved OP keeps it: an error with info 6 (R89). -/
theorem execReservedOp_keeps_inv {s t : State} (h : s.Inv) (he : execReservedOp s = .next t) : t.Inv := by
  rcases State.runPure_cases he with ⟨-, rfl⟩ | ⟨-, e, hok, -⟩ | ⟨-, e, herr, rfl⟩
  · exact h
  · cases hok
  · cases herr
    exact h.dataOk.accept.raise rfl (Err.range_valid (by omega) (by omega))

/-- The answer to the LineWrite keeps it: the Exchange is issued on the latched packet, or the SEND fails (R173,
R174). -/
theorem State.Inv.lineAnswered {s t : State} {r : Response} (h : s.Inv) (hp : s.phase = .linePending)
    (ha : s.lineAnswered r = .next t) : t.Inv := by
  obtain ⟨l, v, hlatch, -, hlast, -, hpacket, hbelow⟩ := h.linePending hp
  obtain ⟨hdone, herr⟩ := h.flags_of_busy (by simp [hp])
  rcases State.lineAnswered_cases ha with ⟨l', hl', -, rfl⟩ | ⟨e, -, rfl⟩
  · obtain rfl : l = l' := Option.some.inj (hlatch.symm.trans hl')
    obtain ⟨hconfig, hres, hseq, hev⟩ :=
      h.dataOk.issue (r := .xfer l.packet l.readLen) hbelow (fun _ _ _ => ⟨v, hlast⟩)
    refine ⟨hconfig, ?_, ?_, h.status, hres, hseq, hev⟩
    · exact ⟨l, hlatch, rfl, List.getLast?_concat, hpacket⟩
    · simp [FlagsOk, State.busy, hdone, herr]
  · exact (h.outside s.port s.presented none s.inputs).dataOk.raise hdone (Err.transport_valid 0 e)

/-- The answer to the Exchange keeps it: the reply is captured, its words fitting CFG.W bits, or the SEND fails (R175,
R176). -/
theorem State.Inv.xferAnswered {s t : State} {r : Response} (h : s.Inv) (hp : s.phase = .xferPending)
    (ha : s.xferAnswered r = .next t) : t.Inv := by
  obtain ⟨hdone, herr⟩ := h.flags_of_busy (by simp [hp])
  rcases State.xferAnswered_cases ha with ⟨l, reply, -, -, hbelow, rfl⟩ | ⟨e, -, rfl⟩
  · exact (h.dataOk.store (by simpa [Results.Valid] using hbelow)).endOk herr
  · exact h.dataOk.raise hdone (Err.transport_valid 1 e)

theorem State.Inv.answered {s t : State} {id : Nat} {r : Response} (h : s.Inv) (ha : s.answered id r = .next t) :
    t.Inv := by
  rcases State.answered_cases ha with rfl | ⟨-, hp, ha⟩ | ⟨-, hp, ha⟩
  · exact h.outside s.port s.presented none s.inputs
  · exact h.lineAnswered hp ha
  · exact h.xferAnswered hp ha

/-- Every event of the world outside keeps it. -/
theorem environment_keeps_inv {s t : State} (h : s.Inv) (he : environment s = .next t) : t.Inv := by
  obtain ⟨i, rest, -, hi⟩ := environment_cases he
  have hrest : State.Inv { s with inputs := rest } := h.outside s.port s.presented s.line rest
  rcases hi with ⟨p, -, rfl⟩ | ⟨p, -, rfl⟩ | ⟨id, r, -, ha⟩ | ⟨-, rfl⟩
  · exact h.outside (some p) s.presented s.line rest
  · exact h.outside (some p) true s.line rest
  · exact hrest.answered ha
  · exact hrest.dataOk.applyReset

/-- Settles O8: an accepted operation, a reserved OP and an event of the world outside each keep the invariant, and a
step is one of them. -/
theorem everyStepKeepsTheInvariant : Obligations.EveryStepKeepsTheInvariant := by
  intro s t h hstep
  obtain ⟨-, ⟨p, i, -, -, hw, he⟩ | ⟨p, -, he⟩ | ⟨-, he⟩⟩ := step_cases hstep
  · exact exec_keeps_inv h hw he
  · exact execReservedOp_keeps_inv h he
  · exact environment_keeps_inv h he

/-! ### Answers to the outstanding request (R13, U12) -/

/-- The outstanding request is the one the phase waits for, and the latch holds a value (R31 (b), R172, R173). -/
theorem State.Inv.pending {s : State} {q : Request} (h : s.Inv) (hq : s.outstanding = some q) :
    ∃ l, s.latch = some l ∧ ((s.phase = .linePending ∧ ∃ v, q = .line v) ∨
      (s.phase = .xferPending ∧ q = .xfer l.packet l.readLen)) := by
  cases hp : s.phase with
  | idle =>
    rw [h.idle hp] at hq
    cases hq
  | linePending =>
    obtain ⟨l, v, hl, ho, -⟩ := h.linePending hp
    exact ⟨l, hl, .inl ⟨rfl, v, Option.some.inj (hq.symm.trans ho)⟩⟩
  | xferPending =>
    obtain ⟨l, hl, ho, -⟩ := h.xferPending hp
    exact ⟨l, hl, .inr ⟨rfl, Option.some.inj (hq.symm.trans ho)⟩⟩

/-- What an answer to the LineWrite comes to, by whether R13 allows it. -/
theorem State.lineAnswered_allowed {s : State} {l : Latch} (hl : s.latch = some l) (v : BitVec 2) (r : Response) :
    (¬ r.Allowed s.cfg.W (.line v) → s.lineAnswered r = .refused .illTypedResponse) ∧
    (r.Allowed s.cfg.W (.line v) → Continues (s.lineAnswered r)) := by
  cases r with
  | lineOk => exact ⟨fun h => absurd trivial h, fun _ => by simp [State.lineAnswered, hl, Continues]⟩
  | lineFail e => exact ⟨fun h => absurd trivial h, fun _ => continues_next _⟩
  | xferOk reply => exact ⟨fun _ => rfl, False.elim⟩
  | xferFail e => exact ⟨fun _ => rfl, False.elim⟩

/-- What an answer to the Exchange comes to, by whether R13 and U12 allow it. -/
theorem State.xferAnswered_allowed {s : State} {l : Latch} (hl : s.latch = some l) (words : List TransportWord)
    (n : Nat) (r : Response) :
    (¬ r.Allowed s.cfg.W (.xfer words n) → s.xferAnswered r = .refused .illTypedResponse) ∧
    (r.Allowed s.cfg.W (.xfer words n) → Continues (s.xferAnswered r)) := by
  cases r with
  | lineOk => exact ⟨fun _ => rfl, False.elim⟩
  | lineFail e => exact ⟨fun _ => rfl, False.elim⟩
  | xferOk reply =>
    have hall : (reply.all (· < 2 ^ s.cfg.W)) = true ↔ WordsBelow s.cfg.W reply := by simp [WordsBelow]
    by_cases hw : WordsBelow s.cfg.W reply
    · exact ⟨fun h => absurd hw h, fun _ => by simp [State.xferAnswered, hl, hall.mpr hw, Continues]⟩
    · exact ⟨fun _ => by simp only [State.xferAnswered, hl, if_neg (mt hall.mp hw)], fun h => absurd h hw⟩
  | xferFail e => exact ⟨fun h => absurd trivial h, fun _ => continues_next _⟩

theorem State.isOutstanding_iff {s : State} {id : Nat} :
    s.isOutstanding id = true ↔ ∃ q, s.outstanding = some q ∧ s.trace.length = id + 1 := by
  rw [State.isOutstanding, Bool.and_eq_true, Option.isSome_iff_exists, beq_iff_eq, eq_comm (a := id + 1),
    exists_and_right]

theorem State.answered_late {s : State} {id : Nat} {r : Response} (h : s.isOutstanding id = false) :
    s.answered id r = .next s.discard := by
  simp [State.answered, h]

/-- An answer to the outstanding request is refused where it is not allowed and consumed where it is. -/
theorem State.Inv.answered_allowed {s : State} {q : Request} {id : Nat} (h : s.Inv) (hq : s.outstanding = some q)
    (hid : s.trace.length = id + 1) (r : Response) :
    (¬ r.Allowed s.cfg.W q → s.answered id r = .refused .illTypedResponse) ∧
    (r.Allowed s.cfg.W q → Continues (s.answered id r)) := by
  have ho : s.isOutstanding id = true := State.isOutstanding_iff.mpr ⟨q, hq, hid⟩
  obtain ⟨l, hl, ⟨hp, v, rfl⟩ | ⟨hp, rfl⟩⟩ := h.pending hq
  · have hans : s.answered id r = s.lineAnswered r := by simp [State.answered, ho, hp]
    exact hans ▸ State.lineAnswered_allowed hl v r
  · have hans : s.answered id r = s.xferAnswered r := by simp [State.answered, ho, hp]
    exact hans ▸ State.xferAnswered_allowed hl _ _ r

theorem State.Inv.not_acceptable {s : State} {q : Request} (h : s.Inv) (hq : s.outstanding = some q) :
    s.acceptable = none := by
  refine State.acceptable_busy fun hp => ?_
  rw [h.idle hp] at hq
  cases hq

theorem environment_answer {s : State} {id : Nat} {r : Response} {rest : List Input}
    (h : s.inputs = .answer id r :: rest) : environment s = State.answered { s with inputs := rest } id r := by
  simp [environment, h]

/-- Settles O13: the step is the answer, which the phase consumes or refuses. -/
theorem answersNotAllowedAreRefused : Obligations.AnswersNotAllowedAreRefused := by
  intro s q id r rest h hq hid hin
  rw [step_environment h.config (h.not_acceptable hq), environment_answer hin]
  exact (h.outside s.port s.presented s.line rest).answered_allowed hq hid r

/-! ### The stops (logs 5, 9, 17, 18) -/

/-- Where nothing is to come, the world outside leaves CORE waiting (R177, R221). -/
theorem environment_nothing {s : State} (h : s.inputs = []) :
    (environment s = .fault .noOperationPresented ∧ s.phase = .idle) ∨
    (environment s = .fault .noTransportResponse ∧ s.busy = true) := by
  unfold environment
  rw [h]
  cases hp : s.phase with
  | idle => exact .inl ⟨rfl, rfl⟩
  | linePending => exact .inr ⟨rfl, by simp [State.busy, hp]⟩
  | xferPending => exact .inr ⟨rfl, by simp [State.busy, hp]⟩

/-- An event that is to come happens, or is an answer that is not allowed. -/
theorem State.Inv.environment_event {s : State} {i : Input} {rest : List Input} (h : s.Inv)
    (hin : s.inputs = i :: rest) :
    Continues (environment s) ∨
    (environment s = .refused .illTypedResponse ∧ ∃ q id r, s.outstanding = some q ∧ s.trace.length = id + 1 ∧
      i = .answer id r ∧ ¬ r.Allowed s.cfg.W q) := by
  cases i with
  | drive p => exact .inl (by simp [environment, hin, Continues])
  | present p => exact .inl (by simp [environment, hin, Continues])
  | reset => exact .inl (by simp [environment, hin, Continues])
  | answer id r =>
    rw [environment_answer hin]
    have hrest : State.Inv { s with inputs := rest } := h.outside s.port s.presented s.line rest
    cases ho : State.isOutstanding { s with inputs := rest } id with
    | false =>
      rw [State.answered_late ho]
      exact .inl (continues_next _)
    | true =>
      obtain ⟨q, hq, hid⟩ := State.isOutstanding_iff.mp ho
      obtain ⟨hrefused, hconsumed⟩ := hrest.answered_allowed hq hid r
      by_cases hr : r.Allowed s.cfg.W q
      · exact .inl (hconsumed hr)
      · exact .inr ⟨hrefused hr, q, id, r, hq, hid, rfl, hr⟩

/-- Settles O12: an acceptance goes on unless an operand word is ill typed; without one to make, the script is empty or
its next event happens, a disallowed answer apart. -/
theorem onlyNamedStopsOccur : Obligations.OnlyNamedStopsOccur := by
  intro s h
  cases ha : s.acceptable with
  | some p =>
    rw [step_accept h.config ha]
    cases hd : decode p with
    | error e => exact .inl (acceptPort_reserved hd s ▸ execReservedOp_continues s)
    | ok i =>
      cases hw : i.wellFormed with
      | true => exact .inl (acceptPort_wellFormed hd hw s ▸ everyOperationContinues i s)
      | false => exact .inr (.inr (.inr (.inl ⟨acceptPort_illTyped hd hw s, p, i, rfl, hd, hw⟩)))
  | none =>
    rw [step_environment h.config ha]
    cases hin : s.inputs with
    | nil =>
      rcases environment_nothing hin with ⟨hstop, hidle⟩ | ⟨hstop, hbusy⟩
      · exact .inr (.inl ⟨hstop, hidle, rfl, rfl⟩)
      · exact .inr (.inr (.inl ⟨hstop, hbusy, rfl⟩))
    | cons i rest =>
      rcases h.environment_event hin with hgo | ⟨hstop, q, id, r, hq, hid, rfl, hr⟩
      · exact .inl hgo
      · exact .inr (.inr (.inr (.inr ⟨hstop, q, id, r, rest, hq, hid, rfl, hr⟩)))

end Sys2Proof.Machine
end

section
/-! SUPPORT. Proofs of the statements about the state: what the operand registers present, what reset leaves, what the
caller and a late answer change, what no step and no operation writes, and what an operation's outcome depends on. -/

namespace Sys2Proof.Machine

/-! ### Reading an operation (R23, R88, R170) -/

/-- The encoder KIND names is read from KIND and that encoder's operands alone (R170). -/
theorem decodeKind_congr {p q : Port} (hkind : p.kind = q.kind) (h : EncoderOperandsAgree p.kind.toNat p q) :
    decodeKind p = decodeKind q := by
  unfold EncoderOperandsAgree at h
  unfold decodeKind
  rw [← hkind]
  split at h <;> simp_all [Port.channel]

/-- An operation is read from OP and the registers R23 gives it alone. -/
theorem decode_congr {p q : Port} (h : UsedOperandsAgree p q) : decode p = decode q := by
  obtain ⟨hop, h⟩ := h
  unfold decode
  rw [← hop]
  split at h
  · next h0 =>
    obtain ⟨hvalues, hwidth, horder⟩ := h
    simp [h0, hvalues, hwidth, horder]
  · next h1 =>
    obtain ⟨hwords, hwidth⟩ := h
    simp [h1, hwords, hwidth]
  · next h9 =>
    obtain ⟨hwords, hwidth⟩ := h
    simp [h9, hwords, hwidth]
  · next hA => simp [hA, h]
  · next hB =>
    obtain ⟨hmode, hkind, hexpect, hlen, henc⟩ := h
    simp [hB, hmode, hexpect, hlen, decodeKind_congr hkind henc]
  · unfold EncoderOperandsAgree at h
    split at h <;> simp_all [Port.channel]

theorem decode_opCode {p : Port} {i : Instr} (h : decode p = .ok i) : i.opCode = p.op := by
  unfold decode at h
  split at h <;> cases h
  all_goals
    next hop => exact BitVec.eq_of_toNat_eq hop.symm

theorem encode_op (i : Instr) : (encode i).op = i.opCode := by
  cases i with
  | send mode cmd er n => exact (Laws.EncodedOpCode.send mode cmd er n).1
  | _ => rfl

/-- The encoder a SEND runs comes back from the registers, a KIND that names none included (R89). -/
theorem decodeKind_encodeKind (p : Port) {cmd : EncCmd} (h : cmd.wellFormed = true) :
    decodeKind (encodeKind p cmd) = cmd := by
  cases cmd with
  | reserved k =>
    have hk : k.toNat < 2 ∨ 8 < k.toNat := by
      simpa [EncCmd.wellFormed, kindNamesEncoder, imp_iff_not_or] using h
    simp only [encodeKind, decodeKind]
    split
    case h_8 => rfl
    all_goals omega
  | _ => rfl

/-- No operand bit is dropped on the way to the registers and back (R88, R92); the words of UNPACK and
DECODE_TELEMETRY need not fit for that. -/
theorem decode_encode {i : Instr} (h : i.isUnpack = false → i.isTelemetry = false → i.wellFormed = true) :
    decode (encode i) = .ok i := by
  cases i with
  | send mode cmd er n =>
    have hread : decode (encode (.send mode cmd er n)) =
        .ok (.send mode (decodeKind (encode (.send mode cmd er n))) er n) := by
      cases cmd <;> rfl
    have hcmd : decodeKind (encode (.send mode cmd er n)) = cmd := decodeKind_encodeKind _ (h rfl rfl)
    rw [hread, hcmd]
  | _ => rfl

/-- Settles O2: whatever is decoded is well formed but for the words (O6), so encoding it loses nothing. -/
theorem decodeReadsOnlyTheUsedOperands : Obligations.DecodeReadsOnlyTheUsedOperands := by
  obtain ⟨-, -, hwellFormed, -⟩ := illTypedInputIsRefused
  refine ⟨fun p q => decode_congr, fun p i h => ⟨?_, ?_⟩⟩
  · rw [encode_op, decode_opCode h]
  · exact decode_encode (hwellFormed p i h)

/-! ### Reset (R32, R220) -/

/-- Nothing is written and nothing has happened yet. -/
theorem State.resetOf_inv {c : Config} (hc : c.WF) : (State.resetOf c).Inv where
  config := hc
  sequencer := rfl
  flags := by simp [FlagsOk, State.busy, State.resetOf, Status.reset]
  status := ⟨rfl, rfl⟩
  results := by simp [Results.Valid, State.resetOf, Results.empty]
  sequenced := by simp [WellSequenced, State.resetOf]
  events := by simp [State.resetOf]

/-- Settles O7: CFG_REF, which State.reset takes, is one of the well-formed configurations. -/
theorem resetMeetsTheInvariant : Obligations.ResetMeetsTheInvariant :=
  ⟨fun _ => State.resetOf_inv, State.resetOf_inv Config.cfgRef_wf⟩

theorem State.resetOf_isReset (c : Config) : IsReset (State.resetOf c) := by
  constructor <;> rfl

/-- The reset input leaves every register as after reset, in any phase. -/
theorem State.applyReset_isReset (s : State) : IsReset s.applyReset := by
  constructor <;> rfl

/-- A reset input that comes next is taken, also before an operation that is presented (R220). -/
theorem step_reset {s : State} {rest : List Input} (hc : s.cfg.WF) (h : s.inputs = .reset :: rest) :
    step s = .next (State.applyReset { s with inputs := rest }) := by
  rw [step_environment hc (State.acceptable_reset h)]
  simp [environment, h]

/-- Settles O9: the step is `State.applyReset`, which keeps the line but for an abandoned LineWrite. -/
theorem resetLeavesEveryRegisterAsStated : Obligations.ResetLeavesEveryRegisterAsStated := by
  refine ⟨fun c => ⟨State.resetOf_isReset c, rfl, rfl⟩, fun s rest hc h => ?_⟩
  exact ⟨_, step_reset hc h, State.applyReset_isReset _, rfl, rfl, rfl, fun hp => if_neg hp⟩

/-! ### Late answers and the caller's writes (R23, R32, R171) -/

/-- Settles O10: such an answer names no outstanding request, so the environment discards it. -/
theorem lateAnswerIsDiscarded : Obligations.LateAnswerIsDiscarded := by
  intro s id r rest hc ha hin hlate
  have hnot : State.isOutstanding { s with inputs := rest } id = false := by
    rw [← Bool.not_eq_true, State.isOutstanding_iff]
    rintro ⟨q, hq, hid⟩
    rcases hlate with hnone | hother
    · cases hnone.symm.trans hq
    · exact hother hid.symm
  rw [step_environment hc ha, environment_answer hin, State.answered_late hnot]
  rfl

/-- Settles O14: with no operation to accept, the step is the caller's write. -/
theorem callerWritesThePort : Obligations.CallerWritesThePort := by
  intro s p rest hc ha
  rw [step_environment hc ha]
  constructor
  · intro hin
    simp [environment, hin, State.drive]
  · intro hin
    simp [environment, hin, State.present]

/-! ### What the caller reads (R24, R26, R28, R191) -/

/-- A register reads as its value, or as the caller's fault where it holds none (R28, U11). -/
theorem readRegister_readsAs {α : Type} (register : Option α) : ReadsAs register (readRegister register) := by
  refine ⟨?_, fun a => ?_⟩
  · rintro rfl
    rfl
  · rintro rfl
    rfl

theorem State.readPhase_codes (s : State) :
    (s.phase = .idle ↔ s.readPhase = 0) ∧ (s.phase = .linePending ↔ s.readPhase = 1) ∧
    (s.phase = .xferPending ↔ s.readPhase = 2) ∧ s.readPhase ≠ 3 := by
  unfold State.readPhase
  cases s.phase <;> decide

theorem State.readStErr_codes (s : State) :
    (s.status.code = .none ↔ s.readStErr = 0) ∧ (s.status.code = .rangeError ↔ s.readStErr = 1) ∧
    (s.status.code = .invalidRegisterWidth ↔ s.readStErr = 2) ∧
    (s.status.code = .transportFailure ↔ s.readStErr = 3) ∧ s.readStErr.toNat ≤ 3 := by
  unfold State.readStErr
  cases s.status.code <;> decide

/-- In IDLE the flags tell the end that ST_ERR tells (R26, R27). -/
theorem State.Inv.idle_flags {s : State} (h : s.Inv) (hp : s.phase = .idle) :
    (s.err = true ↔ s.status.code ≠ .none) ∧ (s.done = true → s.status.code = .none) := by
  obtain ⟨hnotBoth, -, herr⟩ := h.flags
  have herr := herr (s.busy_false_iff.mpr hp)
  refine ⟨herr, fun hdone => ?_⟩
  by_contra hcode
  exact hnotBoth ⟨hdone, herr.mpr hcode⟩

/-- After a transport failure ST_TF holds its report (R27, R194). -/
theorem Status.Valid.tf_of_transportFailure {st : Status} (h : st.Valid) (hcode : st.code = .transportFailure) :
    ∃ e, st.tf = some e := by
  simp only [Status.Valid, hcode] at h
  exact Option.ne_none_iff_exists'.mp h.2

/-- Settles O52: the codes are one number per constructor, and the invariant ties the flags and ST_TF to ST_ERR. -/
theorem callerReadsTheCodes : Obligations.CallerReadsTheCodes := by
  refine ⟨fun s => ?_, State.readStErr_codes, fun s h hphase => ?_⟩
  · obtain ⟨hidle, hline, hxfer, hthree⟩ := s.readPhase_codes
    exact ⟨hidle, hline, hxfer, hthree, s.busy_iff.trans (not_congr hidle)⟩
  · obtain ⟨hidle, -⟩ := s.readPhase_codes
    obtain ⟨hnone, -, -, htransport, -⟩ := s.readStErr_codes
    obtain ⟨herr, hdone⟩ := h.idle_flags (hidle.mpr hphase)
    refine ⟨herr.trans (not_congr hnone), fun hd => hnone.mp (hdone hd), fun hcode => ?_⟩
    obtain ⟨e, he⟩ := h.status.tf_of_transportFailure (htransport.mpr hcode)
    exact ⟨e, (readRegister_readsAs s.status.tf).2 e he⟩

/-! ### Nothing writes the configuration (R21 (a)) -/

theorem exec_keeps_cfg {i : Instr} {s t : State} (h : exec i s = .next t) : t.cfg = s.cfg := by
  rcases exec_cases h with ⟨-, rfl⟩ | ⟨-, -, e, -, rfl⟩ | ⟨-, -, e, -, rfl⟩ |
    ⟨-, m, cmd, er, n, -, e, -, rfl⟩ | ⟨-, m, cmd, er, n, -, v, lv, -, rfl⟩
  all_goals rfl

theorem execReservedOp_keeps_cfg {s t : State} (h : execReservedOp s = .next t) : t.cfg = s.cfg := by
  rcases State.runPure_cases h with ⟨-, rfl⟩ | ⟨-, e, -, rfl⟩ | ⟨-, e, -, rfl⟩
  all_goals rfl

theorem State.answered_keeps_cfg {s t : State} {id : Nat} {r : Response} (h : s.answered id r = .next t) :
    t.cfg = s.cfg := by
  rcases State.answered_cases h with rfl | ⟨-, -, ha⟩ | ⟨-, -, ha⟩
  · rfl
  · rcases State.lineAnswered_cases ha with ⟨l, -, -, rfl⟩ | ⟨e, -, rfl⟩
    all_goals rfl
  · rcases State.xferAnswered_cases ha with ⟨l, reply, -, -, -, rfl⟩ | ⟨e, -, rfl⟩
    all_goals rfl

theorem environment_keeps_cfg {s t : State} (h : environment s = .next t) : t.cfg = s.cfg := by
  obtain ⟨i, rest, -, hi⟩ := environment_cases h
  rcases hi with ⟨p, -, rfl⟩ | ⟨p, -, rfl⟩ | ⟨id, r, -, ha⟩ | ⟨-, rfl⟩
  · rfl
  · rfl
  · have hcfg := State.answered_keeps_cfg ha
    exact hcfg
  · rfl

/-- Settles O11: an operation, a reserved OP and an event of the world outside each keep it, and a step is one of
them. -/
theorem noStepWritesTheConfiguration : Obligations.NoStepWritesTheConfiguration := by
  intro s t h
  obtain ⟨-, ⟨p, i, -, -, -, he⟩ | ⟨p, -, he⟩ | ⟨-, he⟩⟩ := step_cases h
  · exact exec_keeps_cfg he
  · exact execReservedOp_keeps_cfg he
  · exact environment_keeps_cfg he

/-! ### Which result registers an operation lists (R28, R29) -/

/-- The effect lists no register that R28 and R29 do not give to the pure operation `i`. -/
structure Effect.ListedBy (e : Effect) (i : Instr) : Prop where
  reply : e.results.reply = none
  int : i.isUnpack = false → e.results.int = none
  frame : i.isTelemetry = false → e.results.frame = none
  line : i.isModeLine = false → e.results.line = none
  lv : i.isEncoder = false → e.results.lv = none
  packet : i.isPack = false → i.isEncoder = false → e.results.packet = none ∧ e.packer = none

theorem encoderOp_lists {c : Config} {b : Except Err LogicalValue} {e : Effect} {i : Instr} (hi : i.isEncoder = true)
    (h : encoderOp c b = .ok e) : e.ListedBy i := by
  obtain ⟨lv, -, rfl⟩ := encoderOp_ok h
  constructor <;> simp [hi]

/-- A pure operation lists its own registers only. -/
theorem pureOp_lists {c : Config} {i : Instr} {e : Effect} (h : pureOp c i = some (.ok e)) : e.ListedBy i := by
  cases hi : i.isEncoder with
  | true =>
    obtain ⟨cmd, -, hcmd⟩ := encoder_pureOp (c := c) hi
    rw [hcmd, Option.some.injEq] at h
    exact encoderOp_lists hi h
  | false =>
    cases i with
    | pack values W be =>
      simp only [pureOp, Option.some.injEq, packOp] at h
      split at h <;> cases h
      constructor <;> simp [Instr.isPack]
    | unpack words W =>
      simp only [pureOp, Option.some.injEq, unpackOp] at h
      split at h <;> cases h
      constructor <;> simp [Instr.isUnpack]
    | decodeTelemetry words W =>
      simp only [pureOp, Option.some.injEq, telemetryOp] at h
      split at h <;> cases h
      constructor <;> simp [Instr.isTelemetry]
    | modeLineValue mode =>
      simp only [pureOp, Option.some.injEq, modeLineOp] at h
      split at h <;> cases h
      constructor <;> simp [Instr.isModeLine]
    | send => cases h
    | _ => cases hi

/-- Only a transport failure carries a report for ST_TF (R196). -/
theorem pureOp_error_tf {c : Config} {i : Instr} {e : Err} (h : pureOp c i = some (.error e)) : e.tf = none := by
  rcases pureOp_error h with ⟨n, -, -, rfl⟩ | ⟨n, rfl⟩
  all_goals rfl

theorem sendPrepare_error_tf {c : Config} {mode : BitVec 2} {cmd : EncCmd} {e : Err}
    (h : sendPrepare c mode cmd = .error e) : e.tf = none := by
  obtain ⟨n, -, -, rfl⟩ := sendPrepare_error h
  rfl

/-- Settles O50: an ended pure operation writes the registers its effect lists, an error none, and a started SEND
RES_LV, RES_PACKET and RES_LINE. -/
theorem operationsWriteOnlyWhatTheyList : Obligations.OperationsWriteOnlyWhatTheyList := by
  intro i s t hidle h
  rcases exec_cases h with ⟨hbusy, -⟩ | ⟨-, -, e, hop, rfl⟩ | ⟨-, -, e, hop, rfl⟩ |
    ⟨-, m, cmd, er, n, rfl, e, hsend, rfl⟩ | ⟨-, m, cmd, er, n, rfl, v, lv, -, rfl⟩
  · exact absurd hidle hbusy
  · obtain ⟨hreply, hint, hframe, hline, hlv, hpacket⟩ := pureOp_lists hop
    simp +contextual [hreply, hint, hframe, hline, hlv, hpacket]
  · simp [pureOp_error_tf hop]
  · simp [sendPrepare_error_tf hsend]
  · simp [Instr.isSend]

/-! ### Steps that accept no operation (R28) -/

/-- What an answer leaves in the result registers: all of them as they were, unless it is the reply that ends an
Exchange, which is captured (R175). -/
theorem State.answered_results {s t : State} {id : Nat} {r : Response} (h : s.answered id r = .next t) :
    t.results = s.results ∨
    (s.phase = .xferPending ∧ ∃ reply expect, r = .xferOk reply ∧ t = s.captureReply reply expect) := by
  rcases State.answered_cases h with rfl | ⟨-, -, ha⟩ | ⟨-, hp, ha⟩
  · exact .inl rfl
  · rcases State.lineAnswered_cases ha with ⟨l, -, -, rfl⟩ | ⟨e, -, rfl⟩
    all_goals exact .inl rfl
  · rcases State.xferAnswered_cases ha with ⟨l, reply, -, hr, -, rfl⟩ | ⟨e, -, rfl⟩
    · exact .inr ⟨hp, reply, l.expect, hr, rfl⟩
    · exact .inl rfl

/-- The same of every event of the world outside but the reset input. -/
theorem environment_results {s t : State} {i : Input} {rest : List Input} (hin : s.inputs = i :: rest)
    (hi : i ≠ .reset) (h : environment s = .next t) :
    t.results = s.results ∨
    (s.phase = .xferPending ∧ ∃ id reply expect, i = .answer id (.xferOk reply) ∧
      t = State.captureReply { s with inputs := rest } reply expect) := by
  obtain ⟨i', rest', hin', hcases⟩ := environment_cases h
  obtain ⟨rfl, rfl⟩ := List.cons.inj (hin'.symm.trans hin)
  rcases hcases with ⟨p, -, rfl⟩ | ⟨p, -, rfl⟩ | ⟨id, r, rfl, ha⟩ | ⟨hreset, -⟩
  · exact .inl rfl
  · exact .inl rfl
  · rcases State.answered_results ha with hkept | ⟨hp, reply, expect, rfl, ht⟩
    · exact .inl hkept
    · exact .inr ⟨hp, id, reply, expect, rfl, ht⟩
  · exact absurd hreset hi

/-- Settles O51: the step is an event of the world outside, and only a captured reply writes a result. -/
theorem otherStepsKeepTheResults : Obligations.OtherStepsKeepTheResults := by
  refine ⟨fun s t i rest ha hin hi h => ?_, fun s => ?_⟩
  · obtain ⟨-, ⟨p, _, hp, -⟩ | ⟨p, hp, -⟩ | ⟨-, he⟩⟩ := step_cases h
    · cases ha.symm.trans hp
    · cases ha.symm.trans hp
    · rcases environment_results hin hi he with hkept | ⟨hphase, id, reply, expect, hans, rfl⟩
      · simp [hkept]
      · exact ⟨rfl, rfl, rfl, rfl, .inr ⟨hphase, rfl, rfl, id, reply, hans, rfl⟩⟩
  · exact ⟨readRegister_readsAs _, readRegister_readsAs _, readRegister_readsAs _, readRegister_readsAs _,
      readRegister_readsAs _, readRegister_readsAs _, readRegister_readsAs _⟩

/-! ### What the outcome of an operation depends on (R20) -/

/-- A SEND that fails a check, in IDLE (R172, R197). -/
theorem exec_send_error {s : State} {mode : BitVec 2} {cmd : EncCmd} {er : Bool} {n : Nat} {e : Err}
    (hidle : s.phase = .idle) (h : sendPrepare s.cfg mode cmd = .error e) :
    exec (.send mode cmd er n) s = .next (s.accept.raise e) := by
  simp [exec, execSend, State.accepting_idle hidle, h]

/-- A SEND that passes its checks, in IDLE (R172). -/
theorem exec_send_ok {s : State} {mode v : BitVec 2} {cmd : EncCmd} {er : Bool} {n : Nat} {lv : LogicalValue}
    (hidle : s.phase = .idle) (h : sendPrepare s.cfg mode cmd = .ok (v, lv)) :
    exec (.send mode cmd er n) s = .next (s.accept.startSend v lv er n) := by
  simp [exec, execSend, State.accepting_idle hidle, h]

/-- In IDLE an operation ends in one effect, ends in one error, or starts one SEND, the same at every state with the
configuration. -/
theorem exec_idle_uniform (i : Instr) (c : Config) :
    (∃ e, ∀ s : State, s.cfg = c → s.phase = .idle → exec i s = .next (s.accept.store e).endOk) ∨
    (∃ e, ∀ s : State, s.cfg = c → s.phase = .idle → exec i s = .next (s.accept.raise e)) ∨
    (∃ v lv er n, ∀ s : State, s.cfg = c → s.phase = .idle → exec i s = .next (s.accept.startSend v lv er n)) := by
  cases hop : pureOp c i with
  | some r =>
    cases r with
    | ok e =>
      refine .inl ⟨e, ?_⟩
      rintro s rfl hidle
      rw [exec_pure hop, State.runPure_ok hidle]
    | error e =>
      refine .inr (.inl ⟨e, ?_⟩)
      rintro s rfl hidle
      rw [exec_pure hop, State.runPure_error hidle]
  | none =>
    cases i with
    | send mode cmd er n =>
      cases hsend : sendPrepare c mode cmd with
      | error e =>
        refine .inr (.inl ⟨e, ?_⟩)
        rintro s rfl hidle
        exact exec_send_error hidle hsend
      | ok prepared =>
        refine .inr (.inr ⟨prepared.1, prepared.2, er, n, ?_⟩)
        rintro s rfl hidle
        exact exec_send_ok hidle hsend
    | _ => simp [pureOp] at hop

/-- A register written over by the same effect in two states holds the same value in both, or is kept in both. -/
theorem or_eq_or_kept {α : Type} (w a b : Option α) : w.or a = w.or b ∨ w.or a = a ∧ w.or b = b := by
  cases w with
  | none => exact .inr ⟨rfl, rfl⟩
  | some x => exact .inl rfl

/-- Settles O54: both states take the same effect, the same error or the same start of a SEND. -/
theorem outcomeDependsOnOperandsAndConfigurationOnly : Obligations.OutcomeDependsOnOperandsAndConfigurationOnly := by
  intro i s s' t t' hcfg hidle hidle' h h'
  rcases exec_idle_uniform i s.cfg with ⟨e, hexec⟩ | ⟨e, hexec⟩ | ⟨v, lv, er, n, hexec⟩
  all_goals
    obtain rfl := Host.Outcome.next.inj ((hexec s rfl hidle).symm.trans h)
    obtain rfl := Host.Outcome.next.inj ((hexec s' hcfg.symm hidle').symm.trans h')
  · exact ⟨rfl, rfl, rfl, rfl, fun _ => ⟨rfl, rfl, rfl⟩, ⟨[], by simp⟩, .inr ⟨rfl, rfl⟩, or_eq_or_kept _ _ _,
      or_eq_or_kept _ _ _, or_eq_or_kept _ _ _, or_eq_or_kept _ _ _, or_eq_or_kept _ _ _, or_eq_or_kept _ _ _⟩
  · simp
  · simp [hcfg]

end Sys2Proof.Machine
end

section
/-! SUPPORT. Proof of the statement about the operand registers: what an answer does to everything else does not depend
on what they hold. -/

namespace Sys2Proof.Machine

/-! ### The operand registers during a SEND (R66) -/

/-- `s` with other contents of the operand registers, and an operation waiting there or not. -/
def State.withPort (s : State) (port : Option Port) (presented : Bool) : State :=
  { s with port := port, presented := presented }

theorem State.lineAnswered_ok {s : State} {l : Latch} (hlatch : s.latch = some l) :
    s.lineAnswered .lineOk =
      .next (State.issue { s with phase := .xferPending, line := s.outstanding.bind Request.lineValue }
        (.xfer l.packet l.readLen)) := by
  simp [State.lineAnswered, hlatch]

theorem State.xferAnswered_ok {s : State} {l : Latch} {reply : List TransportWord} (hlatch : s.latch = some l)
    (hbelow : WordsBelow s.cfg.W reply) : s.xferAnswered (.xferOk reply) = .next (s.captureReply reply l.expect) := by
  have hall : (reply.all (· < 2 ^ s.cfg.W)) = true := by simpa [WordsBelow] using hbelow
  simp only [State.xferAnswered, hlatch, if_pos hall]

/-- The answer to a LineWrite reads the latch, sampled at acceptance, and not the operand registers. -/
theorem State.lineAnswered_withPort {s t : State} {r : Response} (h : s.lineAnswered r = .next t)
    (port : Option Port) (presented : Bool) :
    (s.withPort port presented).lineAnswered r = .next (t.withPort port presented) := by
  rcases State.lineAnswered_cases h with ⟨l, hlatch, rfl, rfl⟩ | ⟨e, rfl, rfl⟩
  · exact State.lineAnswered_ok (s := s.withPort port presented) hlatch
  · rfl

/-- The answer to an Exchange reads the latch and CFG.W, and not the operand registers. -/
theorem State.xferAnswered_withPort {s t : State} {r : Response} (h : s.xferAnswered r = .next t)
    (port : Option Port) (presented : Bool) :
    (s.withPort port presented).xferAnswered r = .next (t.withPort port presented) := by
  rcases State.xferAnswered_cases h with ⟨l, reply, hlatch, rfl, hbelow, rfl⟩ | ⟨e, rfl, rfl⟩
  · exact State.xferAnswered_ok (s := s.withPort port presented) hlatch hbelow
  · rfl

theorem State.answered_linePending {s : State} {id : Nat} (ho : s.isOutstanding id = true)
    (hp : s.phase = .linePending) (r : Response) : s.answered id r = s.lineAnswered r := by
  simp [State.answered, ho, hp]

theorem State.answered_xferPending {s : State} {id : Nat} (ho : s.isOutstanding id = true)
    (hp : s.phase = .xferPending) (r : Response) : s.answered id r = s.xferAnswered r := by
  simp [State.answered, ho, hp]

/-- Whether an answer is late or to which request it is does not depend on the operand registers. -/
theorem State.answered_withPort {s t : State} {id : Nat} {r : Response} (hbusy : s.phase ≠ .idle)
    (h : s.answered id r = .next t) (port : Option Port) (presented : Bool) :
    (s.withPort port presented).answered id r = .next (t.withPort port presented) := by
  cases ho : s.isOutstanding id with
  | false =>
    obtain rfl := Host.Outcome.next.inj ((State.answered_late ho).symm.trans h)
    exact State.answered_late (s := s.withPort port presented) ho
  | true =>
    cases hp : s.phase with
    | idle => exact absurd hp hbusy
    | linePending =>
      rw [State.answered_linePending ho hp] at h
      rw [State.answered_linePending (s := s.withPort port presented) ho hp]
      exact State.lineAnswered_withPort h port presented
    | xferPending =>
      rw [State.answered_xferPending ho hp] at h
      rw [State.answered_xferPending (s := s.withPort port presented) ho hp]
      exact State.xferAnswered_withPort h port presented

/-- While a SEND is in progress no operation is acceptable, so an answer that comes next is the step. -/
theorem step_answer_busy {s : State} {id : Nat} {r : Response} {rest : List Input} (hc : s.cfg.WF)
    (hbusy : s.phase ≠ .idle) (hin : s.inputs = .answer id r :: rest) :
    step s = State.answered { s with inputs := rest } id r := by
  rw [step_environment hc (State.acceptable_busy hbusy), environment_answer hin]

/-- Settles O48: with either contents of the operand registers the step is the answer, which does not read them. -/
theorem operandChangesDoNotReachASendInProgress : Obligations.OperandChangesDoNotReachASendInProgress := by
  intro s t port presented id r rest hbusy hin h
  have hc : s.cfg.WF := (step_cases h).1
  rw [step_answer_busy hc hbusy hin] at h
  calc step (s.withPort port presented)
      = State.answered (State.withPort { s with inputs := rest } port presented) id r :=
        step_answer_busy (s := s.withPort port presented) hc hbusy hin
    _ = .next (t.withPort port presented) :=
        State.answered_withPort (s := { s with inputs := rest }) hbusy h port presented

end Sys2Proof.Machine
end

section
/-! SUPPORT. Proofs of the statements about the operations' encoding (30_encoding.md): the operand registers, the
reserved codes, the encoder a SEND names, the pseudo-operations, what a logical value tells of its operands, and the
telemetry bits. -/

namespace Sys2Proof.Machine

/-! ### The operand registers and the table words (R88, R89, R92) -/

/-- Settles O1: the words of UNPACK and DECODE_TELEMETRY apart, this is all `decode_encode` asks for. -/
theorem decodeOfEncodeIsTheInstruction : Obligations.DecodeOfEncodeIsTheInstruction :=
  fun _ h => decode_encode fun _ _ => h

/-- The op codes above SEND's are reserved (R89). -/
theorem decode_reservedOp {p : Port} (h : 12 ≤ p.op.toNat) : decode p = .error (.reservedOp p.op) := by
  unfold decode
  split
  case h_13 => rfl
  all_goals omega

/-- A table word whose low four bits are a reserved op code stands for no operation. -/
theorem decodeTableWord_reserved {nbits w : Nat} (h : 12 ≤ w % 2 ^ 4) : decodeTableWord nbits w = none := by
  have hop : 12 ≤ (Port.ofTableWord nbits w).op.toNat := by simpa [Port.ofTableWord] using h
  simp [decodeTableWord, decode_reservedOp hop]

/-- Settles O3: each row by evaluating the decoder, the reserved codes by `decodeTableWord_reserved`. -/
theorem tableWordsDecodeToTheirRows : Obligations.TableWordsDecodeToTheirRows := by
  have hreserved : ∀ w ∈ [0xC, 0xD, 0xE, 0xF], 12 ≤ w % 2 ^ 4 := by decide
  exact ⟨rfl, rfl, rfl, rfl, rfl, rfl, rfl, rfl, rfl, rfl, rfl, rfl,
    fun w hw => decodeTableWord_reserved (hreserved w hw)⟩

/-! ### The reserved codes (R89) -/

/-- An accepted operation that raises a RangeError ends as R196 says. -/
theorem State.accept_raise_range_endedErr (s : State) (info : Nat) :
    EndedErr s (s.accept.raise (.range info)) .rangeError info := by
  constructor
  case toUntouched => constructor <;> rfl
  all_goals rfl

theorem decodeKind_reserved {p : Port} (h : p.kind.toNat < 2 ∨ 8 < p.kind.toNat) :
    decodeKind p = .reserved p.kind := by
  unfold decodeKind
  split
  case h_8 => rfl
  all_goals omega

theorem decode_op_send {p : Port} (h : p.op = 0xB#4) :
    decode p = .ok (.send p.mode (decodeKind p) p.expectReply p.readLen) := by
  simp [decode, h]

/-- A step that finds a SEND presented in IDLE accepts it. -/
theorem step_send {s : State} {p : Port} (hc : s.cfg.WF) (ha : s.acceptable = some p) (hop : p.op = 0xB#4) :
    step s = exec (.send p.mode (decodeKind p) p.expectReply p.readLen) s := by
  rw [step_accept hc ha, acceptPort_wellFormed (decode_op_send hop) (decodeKind_wellFormed p)]

/-- With a legal MODE the error of SEND's checks is the encoder's own (R172, R197). -/
theorem sendPrepare_buildCmd_error {c : Config} {mode : BitVec 2} {cmd : EncCmd} {e : Err} (hmode : mode ≠ 3#2)
    (h : buildCmd c cmd = .error e) : sendPrepare c mode cmd = .error e := by
  simp [sendPrepare, lineOf_ok.mpr ⟨hmode, rfl⟩, h]

/-- Settles O5: both raise RangeError 6, one as an operation of its own, the other from SEND's checks. -/
theorem reservedCodesAreRangeErrorSix : Obligations.ReservedCodesAreRangeErrorSix := by
  constructor
  · intro s p hc hidle hpresented hreset hport hop
    refine ⟨_, ?_, s.accept_raise_range_endedErr 6⟩
    rw [step_accept hc (State.acceptable_some.mpr ⟨hidle, hpresented, hreset, hport⟩),
      acceptPort_reserved (decode_reservedOp hop)]
    exact State.runPure_error hidle (.range 6)
  · intro s p hc hidle hpresented hreset hport hop hmode hkind
    refine ⟨_, ?_, s.accept_raise_range_endedErr 6⟩
    rw [step_send hc (State.acceptable_some.mpr ⟨hidle, hpresented, hreset, hport⟩) hop, decodeKind_reserved hkind]
    exact exec_send_error hidle (sendPrepare_buildCmd_error hmode rfl)

/-! ### The encoder operations, run (R120, R121) -/

/-- What an encoder writes for a built value: RES_LV, its packet, and the working registers its PACK leaves. -/
def encodedEffect (c : Config) (lv : LogicalValue) : Effect :=
  { results := { lv := some lv, packet := some (frameLv c lv).out }, packer := some (frameLv c lv) }

/-- An encoder whose check passes, in IDLE. -/
theorem exec_encoder_ok {s : State} {cmd : EncCmd} {i : Instr} {lv : LogicalValue} (hidle : s.phase = .idle)
    (hi : encodeCommand cmd = some i) (h : buildCmd s.cfg cmd = .ok lv) :
    exec i s = .next (s.accept.store (encodedEffect s.cfg lv)).endOk := by
  rw [exec_pure (encodeCommand_pureOp hi), h]
  exact State.runPure_ok hidle (encodedEffect s.cfg lv)

/-- An encoder whose check fails, in IDLE. -/
theorem exec_encoder_error {s : State} {cmd : EncCmd} {i : Instr} {e : Err} (hidle : s.phase = .idle)
    (hi : encodeCommand cmd = some i) (h : buildCmd s.cfg cmd = .error e) : exec i s = .next (s.accept.raise e) := by
  rw [exec_pure (encodeCommand_pureOp hi), h]
  exact State.runPure_error hidle e

/-! ### The encoder KIND names (R88, R170) -/

theorem encodeCommand_isEncoder {cmd : EncCmd} {i : Instr} (h : encodeCommand cmd = some i) : i.isEncoder = true := by
  cases cmd <;> cases h <;> rfl

/-- A KIND of an encoder names the operation that OP = KIND decodes to, with the same operands. -/
theorem encodeCommand_decodeKind {p : Port} (hlo : 2 ≤ p.kind.toNat) (hhi : p.kind.toNat ≤ 8) :
    ∃ i, encodeCommand (decodeKind p) = some i ∧ decode { p with op := p.kind } = .ok i := by
  unfold decodeKind decode
  dsimp only
  split
  case h_8 =>
    simp only [imp_false] at *
    omega
  all_goals exact ⟨_, rfl, by simp [*, Port.channel]⟩

/-- SEND names an operation exactly when KIND is one of the encoders' op codes, and then the one with that op code. -/
theorem encodeCommand_decodeKind_iff (p : Port) (i : Instr) :
    encodeCommand (decodeKind p) = some i ↔
      2 ≤ p.kind.toNat ∧ p.kind.toNat ≤ 8 ∧ decode { p with op := p.kind } = .ok i := by
  by_cases hkind : p.kind.toNat < 2 ∨ 8 < p.kind.toNat
  · rw [decodeKind_reserved hkind]
    simp only [encodeCommand, reduceCtorEq, false_iff]
    omega
  · obtain ⟨hlo, hhi⟩ : 2 ≤ p.kind.toNat ∧ p.kind.toNat ≤ 8 := by omega
    obtain ⟨j, hname, hdecode⟩ := encodeCommand_decodeKind hlo hhi
    simp [hname, hdecode, hlo, hhi]

/-- Settles O37: SEND's checks and the encoder operation both run `buildCmd` on the command KIND names. -/
theorem sendRunsTheEncoderKindNames : Obligations.SendRunsTheEncoderKindNames := by
  refine ⟨encodeCommand_decodeKind_iff, fun p i h => ⟨?_, encodeCommand_isEncoder h⟩, ?_⟩
  · obtain ⟨-, -, hdecode⟩ := (encodeCommand_decodeKind_iff p i).mp h
    exact decode_opCode hdecode
  · intro s p hc hidle hpresented hreset hport hop hmode hlo hhi
    obtain ⟨i, hname, hdecode⟩ := encodeCommand_decodeKind hlo hhi
    rw [step_send hc (State.acceptable_some.mpr ⟨hidle, hpresented, hreset, hport⟩) hop]
    cases hbuild : buildCmd s.cfg (decodeKind p) with
    | ok lv =>
      have hsend := sendPrepare_ok.mpr ⟨hmode, rfl, hbuild⟩
      refine ⟨i, _, _, hdecode, exec_encoder_ok hidle hname hbuild, exec_send_ok hidle hsend, fun _ => ?_, nofun⟩
      exact ⟨rfl, rfl, rfl, rfl⟩
    | error e =>
      have hsend := sendPrepare_buildCmd_error hmode hbuild
      obtain ⟨info, -, -, rfl⟩ := buildCmd_error hbuild
      refine ⟨i, _, _, hdecode, exec_encoder_error hidle hname hbuild, exec_send_error hidle hsend, nofun, fun _ => ?_⟩
      exact s.accept_raise_range_endedErr info

/-! ### What a logical value tells of its operands (R70, R74 to R76, R84) -/

/-- A command with a value is an encoder operation. -/
theorem encodeCommand_of_buildCmd {c : Config} {cmd : EncCmd} {lv : LogicalValue} (h : buildCmd c cmd = .ok lv) :
    ∃ i, encodeCommand cmd = some i := by
  cases cmd with
  | reserved k => cases h
  | _ => exact ⟨_, rfl⟩

/-- The value an encoder gives is the one `buildCmd` builds. -/
theorem encodesTo_iff {c : Config} {cmd : EncCmd} {v : Nat} :
    EncodesTo c cmd v ↔ ∃ lv, buildCmd c cmd = .ok lv ∧ lv.value = v := by
  constructor
  · rintro ⟨i, s, t, lv, hi, rfl, hidle, hexec, hdone, hlv, hv⟩
    cases hbuild : buildCmd s.cfg cmd with
    | ok built =>
      obtain rfl := Host.Outcome.next.inj (hexec.symm.trans (exec_encoder_ok hidle hi hbuild))
      obtain rfl : built = lv := Option.some.inj hlv
      exact ⟨built, rfl, hv⟩
    | error e =>
      obtain rfl := Host.Outcome.next.inj (hexec.symm.trans (exec_encoder_error hidle hi hbuild))
      cases hdone
  · rintro ⟨lv, hbuild, hv⟩
    obtain ⟨i, hi⟩ := encodeCommand_of_buildCmd hbuild
    exact ⟨i, State.resetOf c, _, lv, hi, rfl, rfl, exec_encoder_ok rfl hi hbuild, rfl, rfl, hv⟩

/-- A command that has a value is legal (R85). -/
theorem buildCmd_legal {c : Config} {cmd : EncCmd} {lv : LogicalValue} (h : buildCmd c cmd = .ok lv) :
    CmdLegal c cmd := by
  cases cmd with
  | onOffMask en => trivial
  | attenuation ch level =>
    simp only [buildCmd, buildAttenuation] at h
    split at h <;> cases h
    next hlevel => exact Nat.not_lt.mp hlevel
  | commonAttenuation level =>
    simp only [buildCmd, buildCommonAttenuation] at h
    split at h <;> cases h
    next hcode => unfold CmdLegal; omega
  | phase ch level =>
    simp only [buildCmd, buildPhase] at h
    split at h <;> cases h
    next hlevel => exact Nat.not_lt.mp hlevel
  | reset a => trivial
  | rfEnable a => trivial
  | initEntry index payload =>
    simp only [buildCmd, buildInitEntry] at h
    split at h <;> cases h
    next hindex => exact Nat.lt_succ_iff.mp (Nat.not_le.mp hindex)
  | reserved k => cases h

/-- The value of a command with one field beside its tag; INIT_ENTRY, whose tag replaces payload bits, is the one
command of another shape (R70, R77). -/
theorem buildCmd_value {c : Config} {cmd : EncCmd} {lv : LogicalValue} (hinit : ∀ n x, cmd ≠ .initEntry n x)
    (h : buildCmd c cmd = .ok lv) : lv.value = cmdTag c cmd ||| (cmdField c cmd).2.2 <<< (cmdField c cmd).1 := by
  cases cmd with
  | attenuation ch level =>
    simp only [buildCmd, buildAttenuation] at h
    split at h <;> cases h
    rfl
  | commonAttenuation level =>
    simp only [buildCmd, buildCommonAttenuation] at h
    split at h <;> cases h
    rfl
  | phase ch level =>
    simp only [buildCmd, buildPhase] at h
    split at h <;> cases h
    rfl
  | initEntry index payload => exact absurd rfl (hinit index payload)
  | reserved k => cases h
  | _ => cases h; rfl

/-- The same, of the value an encoder operation leaves in RES_LV. -/
theorem EncodesTo.value {c : Config} {cmd : EncCmd} {v : Nat} (h : EncodesTo c cmd v)
    (hinit : ∀ n x, cmd ≠ .initEntry n x) :
    v = cmdTag c cmd ||| (cmdField c cmd).2.2 <<< (cmdField c cmd).1 := by
  obtain ⟨lv, hbuild, rfl⟩ := encodesTo_iff.mp h
  exact buildCmd_value hinit hbuild

theorem EncodesTo.legal {c : Config} {cmd : EncCmd} {v : Nat} (h : EncodesTo c cmd v) : CmdLegal c cmd := by
  obtain ⟨lv, hbuild, -⟩ := encodesTo_iff.mp h
  exact buildCmd_legal hbuild

/-- With nothing in its field a value is its tag. -/
theorem EncodesTo.value_of_field_zero {c : Config} {cmd : EncCmd} {v : Nat} (h : EncodesTo c cmd v)
    (hinit : ∀ n x, cmd ≠ .initEntry n x) (hzero : (cmdField c cmd).2.2 = 0) : v = cmdTag c cmd := by
  rw [h.value hinit, hzero, Nat.zero_shiftLeft, Nat.or_zero]

/-- A tag that is clear of the payload does not hide it. -/
theorem or_tag_cancel {tag used x y : Nat} (ht : tag % 2 ^ used = 0) (hx : x < 2 ^ used) (hy : y < 2 ^ used)
    (h : tag ||| x = tag ||| y) : x = y := by
  obtain ⟨k, rfl⟩ := Nat.dvd_of_mod_eq_zero ht
  rw [← Nat.two_pow_add_eq_or_of_lt hx, ← Nat.two_pow_add_eq_or_of_lt hy] at h
  exact Nat.add_left_cancel h

/-- Two contents of w-bit fields with no overlap agree only as zero. -/
theorem shiftLeft_eq_of_apart {w m n f g : Nat} (hf : f < 2 ^ w) (hapart : m + w ≤ n) (h : f <<< m = g <<< n) :
    f = 0 ∧ g = 0 := by
  obtain ⟨k, rfl⟩ := Nat.exists_eq_add_of_le hapart
  have hfg : f = 2 ^ w * (2 ^ k * g) := by
    refine Nat.eq_of_mul_eq_mul_left (Nat.two_pow_pos m) ?_
    rw [Nat.shiftLeft_eq, Nat.shiftLeft_eq, pow_add, pow_add] at h
    linarith
  have hkg : 2 ^ k * g = 0 := by
    by_contra hne
    have := Nat.le_mul_of_pos_right (2 ^ w) (Nat.pos_of_ne_zero hne)
    omega
  exact ⟨by simpa [hkg] using hfg, (Nat.mul_eq_zero.mp hkg).resolve_left (Nat.two_pow_pos k).ne'⟩

/-- One value in two w-bit fields, which are the same or do not overlap: the contents are the same, and but for 0 the
fields are. -/
theorem shiftLeft_field_inj {w m n f g : Nat} (hf : f < 2 ^ w) (hg : g < 2 ^ w)
    (hfields : m = n ∨ m + w ≤ n ∨ n + w ≤ m) (h : f <<< m = g <<< n) : f = g ∧ (f ≠ 0 → m = n) := by
  rcases hfields with rfl | hapart | hapart
  · rw [Nat.shiftLeft_eq, Nat.shiftLeft_eq] at h
    exact ⟨Nat.eq_of_mul_eq_mul_right (Nat.two_pow_pos m) h, fun _ => rfl⟩
  · obtain ⟨rfl, rfl⟩ := shiftLeft_eq_of_apart hf hapart h
    exact ⟨rfl, fun hne => absurd rfl hne⟩
  · obtain ⟨rfl, rfl⟩ := shiftLeft_eq_of_apart hg hapart h.symm
    exact ⟨rfl, fun hne => absurd rfl hne⟩

/-- Two contents beside one tag, in fields under it that are the same or do not overlap. -/
theorem taggedField_inj {tag used w m n f g : Nat} (ht : tag % 2 ^ used = 0) (hf : f < 2 ^ w) (hg : g < 2 ^ w)
    (hm : w + m ≤ used) (hn : w + n ≤ used) (hfields : m = n ∨ m + w ≤ n ∨ n + w ≤ m)
    (h : tag ||| f <<< m = tag ||| g <<< n) : f = g ∧ (f ≠ 0 → m = n) := by
  have hx : f <<< m < 2 ^ used := lt_of_lt_of_le (Nat.shiftLeft_lt hf) (Nat.pow_le_pow_right (by omega) hm)
  have hy : g <<< n < 2 ^ used := lt_of_lt_of_le (Nat.shiftLeft_lt hg) (Nat.pow_le_pow_right (by omega) hn)
  exact shiftLeft_field_inj hf hg hfields (or_tag_cancel ht hx hy h)

/-- The operand of one field tells itself from the value. -/
theorem taggedOperand_inj {tag used offset : Nat} {a b : BitVec 8} (ht : tag % 2 ^ used = 0) (hoff : 8 + offset ≤ used)
    (h : tag ||| a.toNat <<< offset = tag ||| b.toNat <<< offset) : a = b := by
  obtain ⟨hab, -⟩ := taggedField_inj ht a.isLt b.isLt hoff hoff (.inl rfl) h
  exact BitVec.eq_of_toNat_eq hab

/-- The one bit of RESET and of RF_ENABLE, whose tag is 0, tells itself from the value. -/
theorem taggedBit_inj {a b : Bool} {offset : Nat} (h : 0 ||| a.toNat <<< offset = 0 ||| b.toNat <<< offset) :
    a = b := by
  rw [Nat.zero_or, Nat.zero_or] at h
  obtain ⟨hab, -⟩ := shiftLeft_field_inj (w := 1) a.toNat_lt b.toNat_lt (.inl rfl) h
  have htoNat : ∀ a b : Bool, a.toNat = b.toNat → a = b := by decide
  exact htoNat a b hab

/-- A channel's level tells itself from the value, and the channel too unless it is 0 (R9 (b), R84). -/
theorem channelLevel_inj {tag used w : Nat} {table : Vector Nat 8} {offsets : List Nat} {x y : Channel} {a b : BitVec 8}
    (ht : tag % 2 ^ used = 0) (honto : Config.OffsetsOnto table offsets) (hnodup : offsets.Nodup)
    (ha : a.toNat < 2 ^ w) (hb : b.toNat < 2 ^ w) (hx : w + table[x.val] ≤ used) (hy : w + table[y.val] ≤ used)
    (hfields : table[x.val] = table[y.val] ∨ table[x.val] + w ≤ table[y.val] ∨ table[y.val] + w ≤ table[x.val])
    (h : tag ||| a.toNat <<< table[x.val] = tag ||| b.toNat <<< table[y.val]) : a = b ∧ (a ≠ 0 → x = y) := by
  obtain ⟨hab, hoff⟩ := taggedField_inj ht ha hb hx hy hfields h
  exact ⟨BitVec.eq_of_toNat_eq hab, fun hne => honto.inj hnodup (hoff fun h0 => hne (BitVec.eq_of_toNat_eq h0))⟩

theorem EncodesTo.attenuation_inj {c : Config} {x y : Channel} {a b : BitVec 8} {v : Nat} (hc : c.WF)
    (ha : EncodesTo c (.attenuation x a) v) (hb : EncodesTo c (.attenuation y b) v) : a = b ∧ (a ≠ 0 → x = y) := by
  have hla : a.toNat ≤ 15 := ha.legal
  have hlb : b.toNat ≤ 15 := hb.legal
  obtain ⟨hxmod, hxmax⟩ := hc.att_mem x
  obtain ⟨hymod, hymax⟩ := hc.att_mem y
  exact channelLevel_inj (w := 4) hc.tagBW0.2 hc.attOffsets Config.attOffsets_nodup (by omega) (by omega) (by omega)
    (by omega) (by omega) ((ha.value nofun).symm.trans (hb.value nofun))

theorem EncodesTo.phase_inj {c : Config} {x y : Channel} {a b : BitVec 8} {v : Nat} (hc : c.WF)
    (ha : EncodesTo c (.phase x a) v) (hb : EncodesTo c (.phase y b) v) : a = b ∧ (a ≠ 0 → x = y) := by
  have hla : a.toNat ≤ 63 := ha.legal
  have hlb : b.toNat ≤ 63 := hb.legal
  obtain ⟨hxmod, hxmax⟩ := hc.ph_mem x
  obtain ⟨hymod, hymax⟩ := hc.ph_mem y
  exact channelLevel_inj (w := 6) hc.tagBW1.2 hc.phOffsets Config.phOffsets_nodup (by omega) (by omega) (by omega)
    (by omega) (by omega) ((ha.value nofun).symm.trans (hb.value nofun))

/-- Settles O29: the one value of two operations is a run of each in CFG_REF; the rest by the shape of a value, a tag
and one field. -/
theorem valuesTellOperandsOnlyWithinOneOperation : Obligations.ValuesTellOperandsOnlyWithinOneOperation := by
  refine ⟨⟨_, encodesTo_iff.mpr ⟨_, rfl, rfl⟩, encodesTo_iff.mpr ⟨_, rfl, rfl⟩, rfl⟩,
    fun c ch v _ h => h.value_of_field_zero nofun rfl, fun c ch v _ h => h.value_of_field_zero nofun rfl,
    fun c v _ _ h => h.value_of_field_zero nofun rfl, fun c v _ h => h.value_of_field_zero nofun rfl, ?_, ?_, ?_, ?_,
    fun c x y a b v => EncodesTo.attenuation_inj, fun c x y a b v => EncodesTo.phase_inj⟩
  · rintro c v (h | h)
    all_goals exact h.value_of_field_zero nofun rfl
  · intro c a b v hc ha hb
    exact taggedOperand_inj hc.tagBW0.2 (by decide : 8 + 34 ≤ 42) ((ha.value nofun).symm.trans (hb.value nofun))
  · intro c a b v hc ha hb
    exact taggedOperand_inj hc.tagBW0.2 (by decide : 8 + 32 ≤ 42) ((ha.value nofun).symm.trans (hb.value nofun))
  · rintro c a b v (⟨ha, hb⟩ | ⟨ha, hb⟩)
    all_goals exact taggedBit_inj ((ha.value nofun).symm.trans (hb.value nofun))

/-! ### The telemetry bits (R79, R80, R154) -/

/-- A field of the telemetry table with an n-bit mask holds the n bits from its shift up (R79). -/
theorem telemetryField_getLsbD {n : Nat} (X shift : Nat) {j : Nat} (hj : j < n) :
    (BitVec.ofNat n (telemetryField X shift (2 ^ n - 1))).getLsbD j = X.testBit (shift + j) := by
  rw [BitVec.getLsbD_ofNat, telemetryField, Nat.testBit_and, Nat.testBit_shiftRight]
  simp [hj]

/-- The nine fields are the used bits of the telemetry integer. -/
theorem frameOf_bits (X : Nat) : FrameBits X.testBit (frameOf X) where
  temp j hj := (telemetryField_getLsbD X 0 hj).trans (congrArg X.testBit (Nat.zero_add j))
  pwr0 _ hj := telemetryField_getLsbD X 6 hj
  pwr1 _ hj := telemetryField_getLsbD X 11 hj
  pwr2 _ hj := telemetryField_getLsbD X 16 hj
  pwr3 _ hj := telemetryField_getLsbD X 21 hj
  pwr4 _ hj := telemetryField_getLsbD X 26 hj
  pwr5 _ hj := telemetryField_getLsbD X 31 hj
  pwr6 _ hj := telemetryField_getLsbD X 36 hj
  pwr7 _ hj := telemetryField_getLsbD X 41 hj

/-- Bits below the first word are those of the words after it. -/
theorem replyBit_cons_low {W i : Nat} {r : TransportWord} {rest : List TransportWord} (h : i < W * rest.length) :
    replyBit W (r :: rest) i = replyBit W rest i := by
  have hlt : i / W < rest.reverse.length := by simpa using Nat.div_lt_of_lt_mul h
  rw [replyBit, replyBit, List.reverse_cons, List.getElem?_append_left hlt]

/-- From there up they are the first word's own, zero beyond it. -/
theorem replyBit_cons_high {W i : Nat} {r : TransportWord} {rest : List TransportWord} (hW : 1 ≤ W) (hr : r < 2 ^ W)
    (h : W * rest.length ≤ i) : replyBit W (r :: rest) i = r.testBit (i - W * rest.length) := by
  obtain ⟨k, rfl⟩ := Nat.exists_eq_add_of_le h
  have hdiv : (W * rest.length + k) / W = rest.length + k / W := Nat.mul_add_div hW _ _
  rw [replyBit, List.reverse_cons, hdiv, List.getElem?_append_right (by simp), Nat.add_sub_cancel_left]
  by_cases hk : k < W
  · simp [Nat.div_eq_of_lt hk, Nat.mod_eq_of_lt hk]
  · have hzero : r.testBit k = false :=
      Nat.testBit_lt_two_pow (lt_of_lt_of_le hr (Nat.pow_le_pow_right (by omega) (by omega)))
    have hpos : k / W ≠ 0 := (Nat.div_pos (by omega) hW).ne'
    simp [hzero, hpos]

/-- R80: the bits of UNPACK's integer, read off the words. -/
theorem wordsInt_testBit {W : Nat} {words : List TransportWord} (hW : 1 ≤ W) (h : WordsBelow W words) (i : Nat) :
    (wordsInt W words).testBit i = replyBit W words i := by
  induction words with
  | nil => simp [wordsInt, replyBit]
  | cons r rest ih =>
    have hr : r < 2 ^ W := h r (by simp)
    have hrest : WordsBelow W rest := fun x hx => h x (by simp [hx])
    have hlow : wordsInt W rest < 2 ^ (W * rest.length) := Nat.mul_comm _ W ▸ wordsInt_lt hrest
    rw [wordsInt, Nat.mul_comm r, Nat.testBit_two_pow_mul_add r hlow]
    split
    · next hi => rw [ih hrest, replyBit_cons_low hi]
    · next hi => rw [replyBit_cons_high hW hr (by omega)]

/-- The frame DECODE_TELEMETRY gives, bit by bit. -/
theorem decodeWords_bits {W : Nat} {words : List TransportWord} (hW : 1 ≤ W) (h : WordsBelow W words) :
    FrameBits (replyBit W words) (decodeWords words W) := by
  have hbits : (wordsInt W words).testBit = replyBit W words := funext (wordsInt_testBit hW h)
  rw [decodeWords, unpackWords_eq h, ← hbits]
  exact frameOf_bits _

/-- DECODE_TELEMETRY in IDLE, at a width that is not 0 (R151). -/
theorem exec_decodeTelemetry {s : State} {W : Nat} (hidle : s.phase = .idle) (hW : 1 ≤ W)
    (words : List TransportWord) :
    exec (.decodeTelemetry words W) s =
      .next (s.accept.store { results := { frame := some (decodeWords words W) } }).endOk := by
  rw [exec_pure (r := telemetryOp words W) rfl, telemetryOp, widthCheck_pos hW]
  exact State.runPure_ok hidle _

/-- Settles O32: the fields are bits of the integer, and those are bits of the words. -/
theorem telemetryBitsComeFromTheWords : Obligations.TelemetryBitsComeFromTheWords := by
  intro words W s hidle hW hwords
  exact ⟨_, _, exec_decodeTelemetry hidle hW words, rfl, decodeWords_bits hW hwords⟩

/-! ### The pseudo-operations (R91) -/

theorem initTable_length (mode : BitVec 2) (tbl : Vector (BitVec 64) 19) (er : Bool) (n : Nat) :
    (initTable mode tbl er n).length = 19 := by
  simp [initTable]

/-- Entry k of the table is sent k-th. -/
theorem initTable_getElem? (mode : BitVec 2) (tbl : Vector (BitVec 64) 19) (er : Bool) (n : Nat) {k : Nat}
    (h : k < 19) :
    (initTable mode tbl er n)[k]? = some (.send mode (.initEntry (BitVec.ofNat 8 k) tbl[k]) er n) := by
  simp [initTable, h]

/-- Settles O55: INIT_TABLE by its length and its entries, RESET_PULSE by definition. -/
theorem pseudoOperationsExpandInOrder : Obligations.PseudoOperationsExpandInOrder :=
  ⟨fun mode tbl er n => ⟨initTable_length mode tbl er n, fun _ h => initTable_getElem? mode tbl er n h⟩,
    fun _ _ _ => rfl⟩

end Sys2Proof.Machine
end

section
/-! SUPPORT. Proofs of the statements about BitPacker (40_bitpacker.md): what PACK and UNPACK do in IDLE, said once
each, then the packet in closed form, its two word orders, and UNPACK against PACK. -/

namespace Sys2Proof.Machine

/-! ### How PACK and UNPACK end (R103, R110) -/

/-- A pure operation that stores its effect ends `ok` (R26, R27). -/
theorem State.accept_store_endOk_endedOk (s : State) (e : Effect) : EndedOk s (s.accept.store e).endOk := by
  constructor
  case toUntouched => constructor <;> rfl
  all_goals rfl

/-- An accepted operation that raises an error of its checks ends as R196 says. -/
theorem State.accept_raise_endedErr (s : State) {e : Err} (hstage : e.stage = 0) (htf : e.tf = none) :
    EndedErr s (s.accept.raise e) e.code e.info := by
  constructor
  case toUntouched => constructor <;> simp [htf]
  case stage => exact hstage
  all_goals rfl

/-! ### PACK, run (R102, R103, R108) -/

/-- What PACK writes: the packet of its stream, and the working registers its loop leaves. -/
def packedEffect (values : List (Nat × Nat)) (W : Nat) (be : Bool) : Effect :=
  { results := { packet := some (packetOf (streamInt values) (streamLen values) W be) }
    packer := some (packLoop values W be) }

/-- PACK in IDLE with positive widths. -/
theorem exec_pack_ok {values : List (Nat × Nat)} {W : Nat} {s : State} (hidle : s.phase = .idle) (hW : 1 ≤ W)
    (hpos : WidthsPositive values) (be : Bool) :
    exec (.pack values W be) s = .next (s.accept.store (packedEffect values W be)).endOk := by
  rw [exec_pure (r := packOp values W be) rfl, packOp, packCheck_ok.mpr ⟨hW, hpos⟩, packedEffect,
    ← packLoop_out hW]
  exact State.runPure_ok hidle _

/-- PACK in IDLE, refused by its check. -/
theorem exec_pack_error {values : List (Nat × Nat)} {W : Nat} {s : State} {e : Err} (hidle : s.phase = .idle)
    (h : packCheck values W = .error e) (be : Bool) :
    exec (.pack values W be) s = .next (s.accept.raise e) := by
  rw [exec_pure (r := packOp values W be) rfl, packOp, h]
  exact State.runPure_error hidle e

/-- With OUT_WIDTH positive the check names the smallest index of a declared width 0. -/
theorem packCheck_firstZero {values : List (Nat × Nat)} {W i v : Nat} (hW : 1 ≤ W) (hi : values[i]? = some (v, 0))
    (hbefore : ∀ j < i, ∀ vw, values[j]? = some vw → vw.2 ≠ 0) :
    packCheck values W = .error (.width (1 + i)) := by
  obtain ⟨hlt, hget⟩ := List.getElem?_eq_some_iff.mp hi
  have hfirst : values.findIdx? (fun vw => vw.2 == 0) = some i := by
    refine List.findIdx?_eq_some_iff_getElem.mpr ⟨hlt, by simp [hget], fun j hj => ?_⟩
    simpa using hbefore j hj _ (List.getElem?_eq_getElem _)
  simp [packCheck, show W ≠ 0 by omega, hfirst]

/-- Settles O16: OUT_WIDTH 0 is refused before any value is looked at, then the first zero width. -/
theorem packRefusesZeroWidths : Obligations.PackRefusesZeroWidths := by
  constructor
  · intro values be s hidle
    exact ⟨_, exec_pack_error hidle rfl be, s.accept_raise_endedErr rfl rfl⟩
  · intro values W i v be s hidle hW hi hbefore
    exact ⟨_, exec_pack_error hidle (packCheck_firstZero hW hi hbefore) be, s.accept_raise_endedErr rfl rfl⟩

/-! ### The packet, word by word (R108) -/

/-- The accumulator holds no bit above those it has taken. -/
theorem PackedTo.acc_lt {W S T : Nat} {p : Packer} (h : PackedTo W S T p) : p.acc < 2 ^ p.cnt := by
  have hT : T / W * W + T % W = T := Nat.div_add_mod' T W
  rw [h.acc, h.cnt]
  refine Nat.div_lt_of_lt_mul ?_
  rw [← pow_add, hT]
  exact h.bound

theorem digitsLE_getElem? {W n k : Nat} (S : Nat) (hk : k < n) : (digitsLE S W n)[k]? = some (digit S W k) := by
  simp [digitsLE, hk]

/-- Word k of the stream stands at place k, or at place k from the end when the order is reversed. -/
theorem packetOf_getElem? {T W k : Nat} (S : Nat) (be : Bool) (hk : k < wordCount T W) :
    (packetOf S T W be)[if be then wordCount T W - 1 - k else k]? = some (digit S W k) := by
  cases be with
  | false => exact digitsLE_getElem? S hk
  | true =>
    simp only [packetOf, if_true]
    rw [List.getElem?_reverse (by rw [digitsLE_length]; omega), digitsLE_length, Nat.sub_sub_self (by omega)]
    exact digitsLE_getElem? S hk

/-- Settles O15: the packet is `packetOf`, read word by word; the loop invariants are those of `PackedTo`. -/
theorem packYieldsTheDigitsOfTheStream : Obligations.PackYieldsTheDigitsOfTheStream := by
  constructor
  · intro values W be s hidle hW hpos
    refine ⟨_, packetOf (streamInt values) (streamLen values) W be, exec_pack_ok hidle hW hpos be,
      s.accept_store_endOk_endedOk _, rfl, packetOf_length _ _ _ _, ?_⟩
    rw [packetOf_length]
    exact fun k hk => packetOf_getElem? _ be hk
  · intro values W hW
    have h := packedTo_loop hW values
    exact ⟨h.cnt ▸ Nat.mod_lt _ hW, h.acc_lt, by rw [h.out, digitsLE_length], h.cnt⟩

/-! ### The two word orders, and what a packet depends on (R112, R113) -/

theorem packetOf_bigEndian (S T W : Nat) : packetOf S T W true = (packetOf S T W false).reverse := rfl

/-- Settles O19: both packets are run from the same state, and `packetOf` reverses for one of them. -/
theorem bigEndianPacketIsTheReversal : Obligations.BigEndianPacketIsTheReversal := by
  intro values W s hidle hW hpos
  refine ⟨_, _, _, _, exec_pack_ok hidle hW hpos false, rfl, exec_pack_ok hidle hW hpos true, rfl,
    packetOf_bigEndian _ _ _, ?_, ?_⟩
  · rw [packetOf_length, packetOf_length]
  · rw [packetOf_bigEndian, List.reverse_reverse]

/-- Settles O20: the closed form of the packet mentions the values only through S and T. -/
theorem packetDependsOnStreamAndLengthOnly : Obligations.PacketDependsOnStreamAndLengthOnly := by
  intro values values' W be s s' hidle hidle' hW hpos hpos' hS hT
  refine ⟨_, _, packetOf (streamInt values) (streamLen values) W be, exec_pack_ok hidle hW hpos be,
    exec_pack_ok hidle' hW hpos' be, rfl, ?_, packetOf_length _ _ _ _, packetOf_below _ _ _ _⟩
  rw [hS, hT]
  rfl

/-! ### UNPACK, run (R109, R110) -/

/-- What UNPACK writes: the sum of the words and its width. -/
def unpackedEffect (words : List TransportWord) (W : Nat) : Effect :=
  { results := { int := some { value := wordsInt W words, width := words.length * W } } }

/-- UNPACK in IDLE of words of W bits. -/
theorem exec_unpack_ok {words : List TransportWord} {W : Nat} {s : State} (hidle : s.phase = .idle) (hW : 1 ≤ W)
    (hwords : WordsBelow W words) :
    exec (.unpack words W) s = .next (s.accept.store (unpackedEffect words W)).endOk := by
  rw [exec_pure (r := unpackOp words W) rfl, unpackOp, widthCheck_pos hW, unpackWords_eq hwords]
  exact State.runPure_ok hidle (unpackedEffect words W)

/-- UNPACK in IDLE at width 0. -/
theorem exec_unpack_zero {s : State} (hidle : s.phase = .idle) (words : List TransportWord) :
    exec (.unpack words 0) s = .next (s.accept.raise (.width 0)) := by
  rw [exec_pure (r := unpackOp words 0) rfl]
  exact State.runPure_error hidle (.width 0)

/-- Settles O17: UNPACK's loop is the sum, and its check refuses width 0. -/
theorem unpackConcatenatesTheWords : Obligations.UnpackConcatenatesTheWords := by
  constructor
  · intro words W s hidle hW hwords
    exact ⟨_, exec_unpack_ok hidle hW hwords, s.accept_store_endOk_endedOk _, rfl, rfl⟩
  · intro words s hidle
    exact ⟨_, exec_unpack_zero hidle words, s.accept_raise_endedErr rfl rfl⟩

/-! ### UNPACK inverts the big-endian PACK (R111) -/

/-- The words of a packet hold the whole stream. -/
theorem le_wordCount_mul {W : Nat} (hW : 1 ≤ W) (T : Nat) : T ≤ wordCount T W * W := by
  have hdm := Nat.div_add_mod' (T + W - 1) W
  have hml := Nat.mod_lt (T + W - 1) hW
  unfold wordCount
  omega

/-- Without a partial word they hold nothing else. -/
theorem wordCount_mul {T W : Nat} (hW : 1 ≤ W) (h : T % W = 0) : wordCount T W * W = T := by
  obtain ⟨q, rfl⟩ := Nat.dvd_of_mod_eq_zero h
  have hq : wordCount (W * q) W = q := by
    rw [wordCount, Nat.add_sub_assoc hW, Nat.mul_add_div hW, Nat.div_eq_of_lt (by omega), Nat.add_zero]
  rw [hq, Nat.mul_comm]

/-- The digits of a stream, highest first, sum up to what lies below the last of them. -/
theorem wordsInt_digitsLE_reverse (S W n : Nat) : wordsInt W (digitsLE S W n).reverse = S % 2 ^ (n * W) := by
  induction n with
  | zero => simp [digitsLE, wordsInt, Nat.mod_one]
  | succ n ih =>
    rw [digitsLE_succ, List.reverse_append, List.reverse_singleton, List.singleton_append, wordsInt, ih,
      List.length_reverse, digitsLE_length, digit, Nat.succ_mul, pow_add, Nat.mod_mul, Nat.mul_comm W n]
    ring

/-- The digits of a sum of words are the words, last first. -/
theorem digitsLE_wordsInt {W : Nat} {words : List TransportWord} (h : WordsBelow W words) :
    digitsLE (wordsInt W words) W words.length = words.reverse := by
  induction words with
  | nil => rfl
  | cons r rest ih =>
    have hr : r < 2 ^ W := h r (by simp)
    have hrest : WordsBelow W rest := fun x hx => h x (by simp [hx])
    have htop : digit (wordsInt W rest + r * 2 ^ (rest.length * W)) W rest.length = r := by
      rw [digit, Nat.add_mul_div_right _ _ (Nat.two_pow_pos _), Nat.div_eq_of_lt (wordsInt_lt hrest), Nat.zero_add,
        Nat.mod_eq_of_lt hr]
    rw [wordsInt, Nat.add_comm, Nat.mul_comm W, List.length_cons, digitsLE_succ, htop,
      digitsLE_add_high _ _ le_rfl, ih hrest, List.reverse_cons]

/-- The sum of a big-endian packet is the stream. -/
theorem wordsInt_packetOf_bigEndian {S T W : Nat} (hW : 1 ≤ W) (hS : S < 2 ^ T) :
    wordsInt W (packetOf S T W true) = S := by
  have hfits : S < 2 ^ (wordCount T W * W) :=
    lt_of_lt_of_le hS (Nat.pow_le_pow_right (by omega) (le_wordCount_mul hW T))
  exact (wordsInt_digitsLE_reverse S W _).trans (Nat.mod_eq_of_lt hfits)

/-- The sum of a little-endian packet has the digits of the stream in reversed order. -/
theorem digit_wordsInt_packetOf_littleEndian {T W k : Nat} (S : Nat) (hk : k < wordCount T W) :
    digit (wordsInt W (packetOf S T W false)) W k = digit S W (wordCount T W - 1 - k) := by
  have hdigits := digitsLE_wordsInt (packetOf_below S T W false)
  rw [packetOf_length, ← packetOf_bigEndian] at hdigits
  have hword := packetOf_getElem? S true (show wordCount T W - 1 - k < wordCount T W by omega)
  rw [if_pos rfl, Nat.sub_sub_self (by omega), ← hdigits, digitsLE_getElem? _ hk] at hword
  exact Option.some.inj hword

/-- Settles O18: UNPACK runs on the packet PACK left, and its sum is the one of that packet. -/
theorem unpackInvertsBigEndianPack : Obligations.UnpackInvertsBigEndianPack := by
  intro values W s hidle hW hpos
  constructor
  · refine ⟨_, _, _, exec_pack_ok hidle hW hpos true, rfl, exec_unpack_ok rfl hW (packetOf_below _ _ _ _), ?_,
      wordCount_mul hW⟩
    simp [unpackedEffect, packetOf_length, wordsInt_packetOf_bigEndian hW (streamInt_lt values)]
  · refine ⟨_, _, _, _, exec_pack_ok hidle hW hpos false, rfl, exec_unpack_ok rfl hW (packetOf_below _ _ _ _),
      ?_, ?_, fun k hk => digit_wordsInt_packetOf_littleEndian _ hk⟩
    · simp [unpackedEffect, packetOf_length]
    · simpa only [packetOf_length] using wordsInt_lt (packetOf_below (streamInt values) (streamLen values) W false)

end Sys2Proof.Machine
end

section
/-! SUPPORT. Proofs of the statements about RegisterEncoder (41_register_encoder.md): what each encoder builds for a
legal and for an illegal operand, the fields of one register, and the whole SEND of a command. -/

namespace Sys2Proof.Machine

/-! ### What an encoder builds, by whether its operands are legal (R85, R120) -/

/-- An encoder refuses an illegal operand with its own RangeError (R85, R192). -/
theorem buildCmd_illegal {c : Config} {cmd : EncCmd} (h : ¬ CmdLegal c cmd) :
    buildCmd c cmd = .error (.range (cmdErrInfo cmd)) := by
  cases cmd with
  | onOffMask en => exact absurd trivial h
  | attenuation ch level => exact if_pos (Nat.not_le.mp h)
  | commonAttenuation level => exact if_pos (not_or.mp h)
  | phase ch level => exact if_pos (Nat.not_le.mp h)
  | reset a => exact absurd trivial h
  | rfEnable a => exact absurd trivial h
  | initEntry index payload => exact if_pos (Nat.not_le.mp h)
  | reserved k => rfl

/-- INIT_ENTRY apart, a legal command's value is its tag and its one field in REG_WIDTH bits (R70). -/
theorem buildCmd_field {c : Config} {cmd : EncCmd} (hinit : ∀ n x, cmd ≠ .initEntry n x) (h : CmdLegal c cmd) :
    buildCmd c cmd = .ok (fieldValue (cmdTag c cmd) (cmdField c cmd).2.2 (cmdField c cmd).1) := by
  cases cmd with
  | attenuation ch level => exact if_neg (Nat.not_lt.mpr h)
  | commonAttenuation level => exact if_neg (not_and_or.mpr (h.imp not_not.mpr not_not.mpr))
  | phase ch level => exact if_neg (Nat.not_lt.mpr h)
  | initEntry index payload => exact absurd rfl (hinit index payload)
  | reserved k => exact h.elim
  | _ => rfl

/-- INIT_ENTRY of an index of the table (R132). -/
theorem buildCmd_initEntry {c : Config} {index : BitVec 8} (h : index.toNat < 19) (payload : BitVec 64) :
    buildCmd c (.initEntry index payload) = .ok
      { value := (payload.toNat &&& complement c.initWidth c.initTagMask) ||| c.initTag[index.toNat]
        width := c.initWidth } := by
  have htag : initTagOf c index.toNat = c.initTag[index.toNat] := by simp [initTagOf, h]
  rw [← htag]
  exact if_neg (Nat.not_le.mpr h)

theorem buildCmd_of_legal {c : Config} {cmd : EncCmd} (h : CmdLegal c cmd) : ∃ lv, buildCmd c cmd = .ok lv := by
  cases cmd with
  | initEntry index payload => exact ⟨_, buildCmd_initEntry (Nat.lt_succ_of_le h) payload⟩
  | _ => exact ⟨_, buildCmd_field nofun h⟩

/-! ### How an encoder operation ends (R120, R121, R196) -/

section EncoderRuns
variable {s : State} {cmd : EncCmd} {i : Instr}

/-- An encoder that builds a value ends `ok` with it and its packet in closed form. -/
theorem exec_encoder_encodedTo {lv : LogicalValue} (hc : s.cfg.WF) (hidle : s.phase = .idle)
    (hi : encodeCommand cmd = some i) (h : buildCmd s.cfg cmd = .ok lv) :
    ∃ t, exec i s = .next t ∧ EncodedTo s t lv := by
  refine ⟨_, exec_encoder_ok hidle hi h, s.accept_store_endOk_endedOk _, ?_⟩
  rw [← frameLv_out hc.wordWidth (buildCmd_valid hc h).2]
  rfl

/-- A legal command with one field beside its tag. -/
theorem exec_encoder_field (hc : s.cfg.WF) (hidle : s.phase = .idle) (hi : encodeCommand cmd = some i)
    (hinit : ∀ n x, cmd ≠ .initEntry n x) (h : CmdLegal s.cfg cmd) :
    ∃ t, exec i s = .next t ∧ EncodedTo s t
      { value := cmdTag s.cfg cmd ||| (cmdField s.cfg cmd).2.2 * 2 ^ (cmdField s.cfg cmd).1, width := 64 } := by
  rw [← Nat.shiftLeft_eq]
  exact exec_encoder_encodedTo hc hidle hi (buildCmd_field hinit h)

/-- An illegal command. -/
theorem exec_encoder_illegal (hidle : s.phase = .idle) (hi : encodeCommand cmd = some i) (h : ¬ CmdLegal s.cfg cmd) :
    ∃ t, exec i s = .next t ∧ EndedErr s t .rangeError (cmdErrInfo cmd) :=
  ⟨_, exec_encoder_error hidle hi (buildCmd_illegal h), s.accept_raise_range_endedErr _⟩

end EncoderRuns

/-! ### Bits of a tag and of a field (R70, R9 (c)) -/

/-- A tag has no bit in the payload. -/
theorem tag_testBit_low {tag used b : Nat} (ht : tag % 2 ^ used = 0) (hb : b < used) : tag.testBit b = false := by
  obtain ⟨k, rfl⟩ := Nat.dvd_of_mod_eq_zero ht
  rw [Nat.testBit_two_pow_mul, decide_eq_false (by omega), Bool.false_and]

/-- Inside the payload a value shows its field alone. -/
theorem taggedField_testBit_low {tag used b : Nat} (ht : tag % 2 ^ used = 0) (hb : b < used) (content offset : Nat) :
    (tag ||| content <<< offset).testBit b = (content <<< offset).testBit b := by
  rw [Nat.testBit_or, tag_testBit_low ht hb, Bool.false_or]

/-- A bit of a field is a bit of its content, inside the field. -/
theorem field_testBit {content w offset b : Nat} (hcontent : content < 2 ^ w)
    (hb : (content <<< offset).testBit b = true) :
    offset ≤ b ∧ b < offset + w ∧ content.testBit (b - offset) = true := by
  rw [Nat.testBit_shiftLeft, Bool.and_eq_true, decide_eq_true_eq] at hb
  obtain ⟨hlo, hbit⟩ := hb
  have hhi : b - offset < w := by
    by_contra hge
    have hpow := Nat.pow_le_pow_right (n := 2) (by decide) (Nat.not_lt.mp hge)
    rw [Nat.testBit_lt_two_pow (lt_of_lt_of_le hcontent hpow)] at hbit
    cases hbit
  exact ⟨hlo, by omega, hbit⟩

/-- The operand of a legal command fits the command's field. -/
theorem cmdField_fits {c : Config} {cmd : EncCmd} (h : CmdLegal c cmd) :
    (cmdField c cmd).2.2 < 2 ^ (cmdField c cmd).2.1 := by
  cases cmd with
  | onOffMask en => exact en.isLt
  | attenuation ch level => exact Nat.lt_succ_of_le h
  | commonAttenuation level =>
    rcases h with h | h
    · exact lt_of_eq_of_lt h c.catt0dB.isLt
    · exact lt_of_eq_of_lt h c.catt8dB.isLt
  | phase ch level => exact Nat.lt_succ_of_le h
  | reset a => exact a.toNat_lt
  | rfEnable a => exact a.toNat_lt
  | initEntry index payload => exact payload.isLt
  | reserved k => exact h.elim

/-! ### The seven encoders (R122 to R132) -/

/-- Settles O21: the value is that of a command with one field, and BW0's tag has no bit among the flags. -/
theorem onOffMaskPlacesEightFlags : Obligations.OnOffMaskPlacesEightFlags := by
  intro en s hc hidle
  obtain ⟨t, hexec, hto⟩ := exec_encoder_field (cmd := .onOffMask en) hc hidle rfl nofun trivial
  refine ⟨t, _, hexec, hto, rfl, fun b hb => ?_⟩
  change (s.cfg.tagBW0 ||| en.toNat * 2 ^ 34).testBit (34 + b) = en.getLsbD b
  rw [← Nat.shiftLeft_eq, taggedField_testBit_low hc.tagBW0.2 (by omega)]
  simp [BitVec.testBit_toNat]

/-- Settles O22: the level is legal up to 15. -/
theorem attenuationFieldOrRangeErrorOne : Obligations.AttenuationFieldOrRangeErrorOne := by
  intro ch level s hc hidle
  exact ⟨exec_encoder_field (cmd := .attenuation ch level) hc hidle rfl nofun,
    fun h => exec_encoder_illegal (cmd := .attenuation ch level) hidle rfl (Nat.not_le.mpr h)⟩

/-- The configured codes are not 0b10 (R9 (d)). -/
theorem cattCode_ne_two {c : Config} (hc : c.WF) {code : BitVec 8} (h : CmdLegal c (.commonAttenuation code)) :
    code.toNat ≠ 2 := by
  obtain ⟨-, h0, h8⟩ := hc.catt
  intro htwo
  rcases h with h | h
  · exact h0 (BitVec.eq_of_toNat_eq (h.symm.trans htwo))
  · exact h8 (BitVec.eq_of_toNat_eq (h.symm.trans htwo))

/-- Settles O23: the legal codes are the configured ones. -/
theorem commonAttenuationCodeOrRangeErrorThree : Obligations.CommonAttenuationCodeOrRangeErrorThree := by
  intro code s hc hidle
  exact ⟨fun h => ⟨cattCode_ne_two hc h, exec_encoder_field (cmd := .commonAttenuation code) hc hidle rfl nofun h⟩,
    fun h0 h8 => exec_encoder_illegal (cmd := .commonAttenuation code) hidle rfl (not_or.mpr ⟨h0, h8⟩)⟩

/-- Settles O24: the level is legal up to 63. -/
theorem phaseFieldOrRangeErrorTwo : Obligations.PhaseFieldOrRangeErrorTwo := by
  intro ch level s hc hidle
  exact ⟨exec_encoder_field (cmd := .phase ch level) hc hidle rfl nofun,
    fun h => exec_encoder_illegal (cmd := .phase ch level) hidle rfl (Nat.not_le.mpr h)⟩

/-- Settles O25: the tag is 0, so the value is the one bit. -/
theorem resetAndRfEnableSetOneBit : Obligations.ResetAndRfEnableSetOneBit := by
  intro a s hc hidle
  have hbit24 : (if a then 0x1000000 else 0) = 0 ||| a.toNat * 2 ^ 24 := by cases a <;> rfl
  have hbit23 : (if a then 0x800000 else 0) = 0 ||| a.toNat * 2 ^ 23 := by cases a <;> rfl
  rw [hbit24, hbit23]
  exact ⟨exec_encoder_field (cmd := .reset a) hc hidle rfl nofun trivial,
    exec_encoder_field (cmd := .rfEnable a) hc hidle rfl nofun trivial⟩

/-- Bit by bit: under the mask the tag, elsewhere the payload (R132). -/
theorem maskedTag_testBit {w mask tag payload : Nat} (hmask : mask < 2 ^ w) (htag : tag ||| mask = mask)
    (hpayload : payload < 2 ^ w) (b : Nat) :
    ((payload &&& complement w mask) ||| tag).testBit b =
      if mask.testBit b then tag.testBit b else payload.testBit b := by
  have hunder : (tag.testBit b || mask.testBit b) = mask.testBit b := by rw [← Nat.testBit_or, htag]
  rw [Nat.testBit_or, Nat.testBit_and, complement, Nat.testBit_xor, Nat.testBit_two_pow_sub_one]
  by_cases hb : b < w
  · cases hm : mask.testBit b with
    | true => simp [hb]
    | false =>
      have ht : tag.testBit b = false := by simpa [hm] using hunder
      simp [hb, ht]
  · have hpow : 2 ^ w ≤ 2 ^ b := Nat.pow_le_pow_right (by decide) (Nat.not_lt.mp hb)
    have hm : mask.testBit b = false := Nat.testBit_lt_two_pow (lt_of_lt_of_le hmask hpow)
    have hp : payload.testBit b = false := Nat.testBit_lt_two_pow (lt_of_lt_of_le hpayload hpow)
    simpa [hm, hp] using hunder

/-- The same of the value of entry n, whose tag lies under the mask (R9 (e), R77). -/
theorem initEntry_testBit {c : Config} (hc : c.WF) {n : Nat} (hn : n < 19) (payload : BitVec 64) (b : Nat) :
    ((payload.toNat &&& complement c.initWidth c.initTagMask) ||| c.initTag[n]).testBit b =
      if c.initTagMask.testBit b then c.initTag[n].testBit b else payload.toNat.testBit b := by
  obtain ⟨hwidth, hmask, htags⟩ := hc.initTags
  have hpayload : payload.toNat < 2 ^ c.initWidth :=
    lt_of_lt_of_le payload.isLt (Nat.pow_le_pow_right (by decide) hwidth)
  exact maskedTag_testBit hmask (htags _ (by simp)) hpayload b

/-- Settles O26: the value is built as R132 writes it, and read bit by bit. -/
theorem initEntryTagsThePayload : Obligations.InitEntryTagsThePayload := by
  intro index payload s hc hidle
  constructor
  · intro hindex
    have hbuild := buildCmd_initEntry (c := s.cfg) hindex payload
    obtain ⟨t, hexec, hto⟩ := exec_encoder_encodedTo hc hidle rfl hbuild
    exact ⟨t, _, hexec, hto, (buildCmd_valid hc hbuild).2, initEntry_testBit hc hindex payload⟩
  · intro hindex
    exact exec_encoder_illegal (cmd := .initEntry index payload) hidle rfl (by simp only [CmdLegal]; omega)

/-! ### One field per value (R136) -/

/-- A set bit of a value is a bit of its tag, or of its content at its place. -/
theorem EncodesTo.testBit {c : Config} {cmd : EncCmd} {v b : Nat} (hc : c.WF) (h : EncodesTo c cmd v)
    (hb : v.testBit b = true) :
    (cmdTag c cmd).testBit b = true ∨ ((cmdField c cmd).2.2 <<< (cmdField c cmd).1).testBit b = true := by
  cases cmd with
  | initEntry index payload =>
    have hindex : index.toNat < 19 := Nat.lt_succ_of_le h.legal
    have htag : initTagOf c index.toNat = c.initTag[index.toNat] := by simp [initTagOf, hindex]
    obtain ⟨lv, hbuild, rfl⟩ := encodesTo_iff.mp h
    obtain rfl := Except.ok.inj ((buildCmd_initEntry hindex payload).symm.trans hbuild)
    rw [initEntry_testBit hc hindex] at hb
    simp only [cmdTag, cmdField, htag, Nat.shiftLeft_zero]
    split at hb
    · exact .inl hb
    · exact .inr hb
  | _ => simpa [h.value nofun] using hb

/-- Settles O28: the content of a legal command fits its field, so a bit of it lies inside. -/
theorem eachValueCarriesOneField : Obligations.EachValueCarriesOneField := by
  intro c cmd v hc h
  refine ⟨h.legal, fun b hb => ?_⟩
  exact (h.testBit hc hb).imp_right (field_testBit (cmdField_fits h.legal))

/-! ### Encoding twice (R135) -/

/-- Settles O30: both runs build the same value in the same configuration, or fail with the same error. -/
theorem encodingTwiceGivesTheSamePacket : Obligations.EncodingTwiceGivesTheSamePacket := by
  intro i s s' t t' hencoder hcfg hidle hidle' h h'
  obtain ⟨cmd, hi, -⟩ := encoder_pureOp (c := s.cfg) hencoder
  cases hbuild : buildCmd s.cfg cmd with
  | ok lv =>
    obtain rfl := Host.Outcome.next.inj ((exec_encoder_ok hidle hi hbuild).symm.trans h)
    obtain rfl := Host.Outcome.next.inj ((exec_encoder_ok hidle' hi (hcfg ▸ hbuild)).symm.trans h')
    simp [encodedEffect, hcfg]
  | error e =>
    obtain rfl := Host.Outcome.next.inj ((exec_encoder_error hidle hi hbuild).symm.trans h)
    obtain rfl := Host.Outcome.next.inj ((exec_encoder_error hidle' hi (hcfg ▸ hbuild)).symm.trans h')
    simp

/-! ### Validation errors (R133, R196) -/

/-- Settles O53: an operation that has set ERR has raised an error of its checks, which ends it as R196 says. -/
theorem validationErrorsLeaveNoEffect : Obligations.ValidationErrorsLeaveNoEffect := by
  intro i s t hidle h herr
  have hended : ∃ code info, (code = .rangeError ∨ code = .invalidRegisterWidth) ∧ EndedErr s t code info := by
    rcases exec_cases h with ⟨hbusy, -⟩ | ⟨-, -, e, -, rfl⟩ | ⟨-, -, e, hop, rfl⟩ |
      ⟨-, m, cmd, er, n, -, e, hsend, rfl⟩ | ⟨-, m, cmd, er, n, -, v, lv, -, rfl⟩
    · exact absurd hidle hbusy
    · cases herr
    · rcases pureOp_error hop with ⟨info, -, -, rfl⟩ | ⟨info, rfl⟩
      · exact ⟨_, _, .inl rfl, s.accept_raise_range_endedErr info⟩
      · exact ⟨_, _, .inr rfl, s.accept_raise_endedErr rfl rfl⟩
    · obtain ⟨info, -, -, rfl⟩ := sendPrepare_error hsend
      exact ⟨_, _, .inl rfl, s.accept_raise_range_endedErr info⟩
    · cases herr
  obtain ⟨code, info, hcode, hend⟩ := hended
  exact ⟨hend.code ▸ hcode, hend.stage, hend.tf, hend.done, hend.phase, hend.outstanding, hend.results, hend.packer,
    hend.latch, hend.trace⟩

/-! ### The fields of one register (R134) -/

/-- Two fields, each an offset, a width and a content, with no bit position in common. -/
def FieldsApart (f g : Nat × Nat × Nat) : Prop := f.1 + f.2.1 ≤ g.1 ∨ g.1 + g.2.1 ≤ f.1

theorem FieldsApart.symm {f g : Nat × Nat × Nat} (h : FieldsApart f g) : FieldsApart g f := Or.symm h

/-- Fields that the low `used` bits of one register hold beside each other. -/
structure FieldsFit (used : Nat) (fields : List (Nat × Nat × Nat)) : Prop where
  below : ∀ f ∈ fields, f.1 + f.2.1 ≤ used
  content : ∀ f ∈ fields, f.2.2 < 2 ^ f.2.1
  apart : fields.Pairwise FieldsApart

/-- The value with one field beside a tag (R70). -/
def valueOfField (tag : Nat) (f : Nat × Nat × Nat) : Nat := (fieldValue tag f.2.2 f.1).value

/-- The or of the values with one tag that carry the given fields. -/
def orOfFields (tag : Nat) (fields : List (Nat × Nat × Nat)) : Nat :=
  (fields.map (valueOfField tag)).foldr (· ||| ·) 0

theorem orOfFields_testBit (tag : Nat) (fields : List (Nat × Nat × Nat)) (b : Nat) :
    (orOfFields tag fields).testBit b = true ↔ ∃ f ∈ fields, (valueOfField tag f).testBit b = true := by
  unfold orOfFields
  induction fields with
  | nil => simp
  | cons f rest ih => simp [Nat.testBit_or, ih]

/-- A bit position lies in one field at most. -/
theorem FieldsFit.eq_of_common {used b : Nat} {fields : List (Nat × Nat × Nat)} (h : FieldsFit used fields)
    {f g : Nat × Nat × Nat} (hf : f ∈ fields) (hg : g ∈ fields) (hfb : f.1 ≤ b ∧ b < f.1 + f.2.1)
    (hgb : g.1 ≤ b ∧ b < g.1 + g.2.1) : f = g := by
  have : Std.Symm FieldsApart := ⟨fun _ _ => FieldsApart.symm⟩
  by_contra hne
  rcases h.apart.forall hf hg hne with hapart | hapart <;> omega

/-- Below `used` the or shows, inside a field, that field's content alone. -/
theorem FieldsFit.testBit_field {tag used j : Nat} {fields : List (Nat × Nat × Nat)} (h : FieldsFit used fields)
    (ht : tag % 2 ^ used = 0) {f : Nat × Nat × Nat} (hf : f ∈ fields) (hj : j < f.2.1) :
    (orOfFields tag fields).testBit (f.1 + j) = f.2.2.testBit j := by
  have hlow : f.1 + j < used := by have := h.below f hf; omega
  rw [Bool.eq_iff_iff, orOfFields_testBit]
  simp only [valueOfField, fieldValue, taggedField_testBit_low ht hlow]
  constructor
  · rintro ⟨g, hg, hbit⟩
    obtain ⟨hlo, hhi, -⟩ := field_testBit (h.content g hg) hbit
    obtain rfl := h.eq_of_common hf hg (b := f.1 + j) (by omega) ⟨hlo, hhi⟩
    simpa using hbit
  · exact fun hbit => ⟨f, hf, by simpa using hbit⟩

/-- Masking gives a field back. -/
theorem FieldsFit.field_eq {tag used : Nat} {fields : List (Nat × Nat × Nat)} (h : FieldsFit used fields)
    (ht : tag % 2 ^ used = 0) {f : Nat × Nat × Nat} (hf : f ∈ fields) :
    orOfFields tag fields / 2 ^ f.1 % 2 ^ f.2.1 = f.2.2 := by
  refine Nat.eq_of_testBit_eq fun j => ?_
  rw [Nat.testBit_mod_two_pow, Nat.testBit_div_two_pow, Nat.add_comm]
  by_cases hj : j < f.2.1
  · simp [hj, h.testBit_field ht hf hj]
  · have hpow : 2 ^ f.2.1 ≤ 2 ^ j := Nat.pow_le_pow_right (by decide) (Nat.not_lt.mp hj)
    simp [hj, Nat.testBit_lt_two_pow (lt_of_lt_of_le (h.content f hf) hpow)]

/-- Above the payload the or shows the tag. -/
theorem FieldsFit.tag_eq {used : Nat} {fields : List (Nat × Nat × Nat)} (h : FieldsFit used fields) (tag : Nat)
    (hne : fields ≠ []) : orOfFields tag fields / 2 ^ used = tag / 2 ^ used := by
  have hhigh : ∀ f ∈ fields, ∀ j, (valueOfField tag f).testBit (j + used) = tag.testBit (j + used) := by
    intro f hf j
    have hnot : (f.2.2 <<< f.1).testBit (j + used) = false := by
      rw [← Bool.not_eq_true]
      intro hbit
      obtain ⟨-, hhi, -⟩ := field_testBit (h.content f hf) hbit
      have := h.below f hf
      omega
    simp only [valueOfField, fieldValue, Nat.testBit_or, hnot, Bool.or_false]
  refine Nat.eq_of_testBit_eq fun j => ?_
  rw [Nat.testBit_div_two_pow, Nat.testBit_div_two_pow, Bool.eq_iff_iff, orOfFields_testBit]
  constructor
  · rintro ⟨f, hf, hbit⟩
    exact hhigh f hf j ▸ hbit
  · intro hbit
    obtain ⟨f, hf⟩ := List.exists_mem_of_ne_nil fields hne
    exact ⟨f, hf, (hhigh f hf j).trans hbit⟩

/-- The or of the values encoders give for commands with one tag is that of their fields. -/
theorem foldr_or_encodesTo {c : Config} {tag : Nat} {cmds : List EncCmd} {vs : List Nat}
    (hcmds : ∀ cmd ∈ cmds, cmdTag c cmd = tag ∧ ∀ n x, cmd ≠ .initEntry n x)
    (h : List.Forall₂ (EncodesTo c) cmds vs) :
    vs.foldr (· ||| ·) 0 = orOfFields tag (cmds.map (cmdField c)) := by
  induction h with
  | nil => rfl
  | @cons cmd v cmds vs hv _ ih =>
    obtain ⟨⟨rfl, hinit⟩, hrest⟩ := List.forall_mem_cons.mp hcmds
    rw [List.foldr_cons, ih hrest, hv.value hinit]
    rfl

theorem isBW0_tag {c : Config} {cmd : EncCmd} (h : cmd.isBW0 = true) :
    cmdTag c cmd = c.tagBW0 ∧ ∀ n x, cmd ≠ .initEntry n x := by
  cases cmd with
  | onOffMask en => exact ⟨rfl, nofun⟩
  | attenuation ch level => exact ⟨rfl, nofun⟩
  | commonAttenuation level => exact ⟨rfl, nofun⟩
  | _ => cases h

/-- BW0's fields lie in bits 0 to 41 (R74). -/
theorem isBW0_below {c : Config} (hc : c.WF) {cmd : EncCmd} (h : cmd.isBW0 = true) :
    (cmdField c cmd).1 + (cmdField c cmd).2.1 ≤ 42 := by
  cases cmd with
  | onOffMask en => exact le_rfl
  | attenuation ch level =>
    obtain ⟨-, hmax⟩ := hc.att_mem ch
    simp only [cmdField]
    omega
  | commonAttenuation level => exact (by decide : 32 + 2 ≤ 42)
  | _ => cases h

/-- The attenuation fields end at bit 31. -/
theorem attenuation_apart_above {c : Config} (hc : c.WF) (ch : Channel) (level : BitVec 8) {g : Nat × Nat × Nat}
    (hg : 32 ≤ g.1) : FieldsApart (cmdField c (.attenuation ch level)) g := by
  obtain ⟨-, hmax⟩ := hc.att_mem ch
  left
  simp only [cmdField]
  omega

/-- Different channels have different attenuation offsets, multiples of 4 (R9 (b)). -/
theorem attenuations_apart {c : Config} (hc : c.WF) {a b : Channel} (hab : a ≠ b) (la lb : BitVec 8) :
    FieldsApart (cmdField c (.attenuation a la)) (cmdField c (.attenuation b lb)) := by
  obtain ⟨hamod, -⟩ := hc.att_mem a
  obtain ⟨hbmod, -⟩ := hc.att_mem b
  have hne : c.attOff[a.val] ≠ c.attOff[b.val] := fun he => hab (hc.attOffsets.inj Config.attOffsets_nodup he)
  simp only [FieldsApart, cmdField]
  omega

/-- Different fields of BW0 do not overlap (R74). -/
theorem distinctBW0Fields_apart {c : Config} (hc : c.WF) {x y : EncCmd} (h : DistinctBW0Fields x y) :
    FieldsApart (cmdField c x) (cmdField c y) := by
  have hmask : ∀ en, 32 ≤ (cmdField c (.onOffMask en)).1 := fun _ => (by decide : 32 ≤ 34)
  have hcatt : ∀ code, 32 ≤ (cmdField c (.commonAttenuation code)).1 := fun _ => le_rfl
  unfold DistinctBW0Fields at h
  split at h
  · exact (attenuation_apart_above hc _ _ (hmask _)).symm
  · exact .inr (by decide : 32 + 2 ≤ 34)
  · exact attenuation_apart_above hc _ _ (hmask _)
  · exact attenuation_apart_above hc _ _ (hcatt _)
  · exact attenuations_apart hc h _ _
  · exact .inl (by decide : 32 + 2 ≤ 34)
  · exact (attenuation_apart_above hc _ _ (hcatt _)).symm
  · exact h.elim

theorem distinctBW0_fieldsFit {c : Config} (hc : c.WF) {cmds : List EncCmd}
    (hcmds : ∀ cmd ∈ cmds, cmd.isBW0 = true ∧ CmdLegal c cmd) (hdistinct : cmds.Pairwise DistinctBW0Fields) :
    FieldsFit 42 (cmds.map (cmdField c)) where
  below := List.forall_mem_map.mpr fun cmd hcmd => isBW0_below hc (hcmds cmd hcmd).1
  content := List.forall_mem_map.mpr fun cmd hcmd => cmdField_fits (hcmds cmd hcmd).2
  apart := List.pairwise_map.mpr (hdistinct.imp (distinctBW0Fields_apart hc))

/-- The phase fields of two channels: multiples of 6 in bits 0 to 47 (R9 (b), R75). -/
theorem phases_fieldsFit {c : Config} (hc : c.WF) {a b : Channel} {la lb : BitVec 8} (hab : a ≠ b)
    (ha : CmdLegal c (.phase a la)) (hb : CmdLegal c (.phase b lb)) :
    FieldsFit 48 ([.phase a la, .phase b lb].map (cmdField c)) := by
  obtain ⟨hamod, hamax⟩ := hc.ph_mem a
  obtain ⟨hbmod, hbmax⟩ := hc.ph_mem b
  have hne : c.phOff[a.val] ≠ c.phOff[b.val] := fun he => hab (hc.phOffsets.inj Config.phOffsets_nodup he)
  constructor
  · simp only [List.map_cons, List.map_nil, List.forall_mem_cons, cmdField]
    exact ⟨by omega, by omega, nofun⟩
  · simp only [List.map_cons, List.map_nil, List.forall_mem_cons]
    exact ⟨cmdField_fits ha, cmdField_fits hb, nofun⟩
  · refine List.pairwise_pair.mpr ?_
    simp only [FieldsApart, cmdField]
    omega

/-- Settles O27: the or of the values is the or of their fields beside the tag, and the fields fit beside each
other. -/
theorem fieldsOfOneRegisterAreDisjoint : Obligations.FieldsOfOneRegisterAreDisjoint := by
  constructor
  · intro c cmds vs hc hne hcmds hdistinct hvs
    have hfit := distinctBW0_fieldsFit hc hcmds hdistinct
    rw [foldr_or_encodesTo (fun cmd hcmd => isBW0_tag (hcmds cmd hcmd).1) hvs]
    exact ⟨fun cmd hcmd => hfit.field_eq hc.tagBW0.2 (List.mem_map_of_mem hcmd),
      hfit.tag_eq c.tagBW0 (by simpa using hne)⟩
  · intro c a b la lb va vb hc hab hla hlb ha hb
    have hfit := phases_fieldsFit hc hab hla hlb
    have hvs := foldr_or_encodesTo (tag := c.tagBW1) (by simp [cmdTag]) (.cons ha (.cons hb .nil))
    rw [show va ||| vb = [va, vb].foldr (· ||| ·) 0 by simp, hvs]
    exact ⟨hfit.field_eq hc.tagBW1.2 (.head _), hfit.field_eq hc.tagBW1.2 (.tail _ (.head _)),
      hfit.tag_eq c.tagBW1 (by simp)⟩

/-! ### A whole SEND (R170 to R175, R179) -/

/-- A field of the telemetry table as a number (R79). -/
theorem telemetryField_toNat (n X shift : Nat) :
    (BitVec.ofNat n (telemetryField X shift (2 ^ n - 1))).toNat = X / 2 ^ shift % 2 ^ n := by
  rw [BitVec.toNat_ofNat, telemetryField, Nat.and_two_pow_sub_one_eq_mod, Nat.mod_mod, Nat.shiftRight_eq_div_pow]

/-- The nine fields as numbers. -/
theorem frameOf_reads (X : Nat) : FrameReads X (frameOf X) where
  temp := (telemetryField_toNat 6 X 0).trans (by rw [pow_zero, Nat.div_one])
  pwr0 := telemetryField_toNat 5 X 6
  pwr1 := telemetryField_toNat 5 X 11
  pwr2 := telemetryField_toNat 5 X 16
  pwr3 := telemetryField_toNat 5 X 21
  pwr4 := telemetryField_toNat 5 X 26
  pwr5 := telemetryField_toNat 5 X 31
  pwr6 := telemetryField_toNat 5 X 36
  pwr7 := telemetryField_toNat 5 X 41

/-- The frame of words of W bits reads off their sum (R151). -/
theorem decodeWords_reads {W : Nat} {words : List TransportWord} (h : WordsBelow W words) :
    FrameReads (wordsInt W words) (decodeWords words W) := by
  rw [decodeWords, unpackWords_eq h]
  exact frameOf_reads _

section Answers
variable {s : State} {l : Latch} {q : Request} {id : Nat} {rest : List Input}

/-- The outstanding LineWrite answered `ok`: the Exchange of the latched packet is issued (R173). -/
theorem step_lineOk (hc : s.cfg.WF) (hp : s.phase = .linePending) (hl : s.latch = some l) (hq : s.outstanding = some q)
    (hid : s.trace.length = id + 1) (hin : s.inputs = .answer id .lineOk :: rest) :
    step s = .next (State.issue { s with inputs := rest, phase := .xferPending, line := q.lineValue }
      (.xfer l.packet l.readLen)) := by
  have ho : State.isOutstanding { s with inputs := rest } id = true := State.isOutstanding_iff.mpr ⟨q, hq, hid⟩
  rw [step_answer_busy hc (by simp [hp]) hin, State.answered_linePending ho hp,
    State.lineAnswered_ok (s := { s with inputs := rest }) hl]
  simp [hq]

/-- The outstanding Exchange answered `ok`: the reply is captured (R175). -/
theorem step_xferOk {reply : List TransportWord} (hc : s.cfg.WF) (hp : s.phase = .xferPending)
    (hl : s.latch = some l) (hq : s.outstanding = some q) (hid : s.trace.length = id + 1)
    (hin : s.inputs = .answer id (.xferOk reply) :: rest) (hbelow : WordsBelow s.cfg.W reply) :
    step s = .next (State.captureReply { s with inputs := rest } reply l.expect) := by
  have ho : State.isOutstanding { s with inputs := rest } id = true := State.isOutstanding_iff.mpr ⟨q, hq, hid⟩
  rw [step_answer_busy hc (by simp [hp]) hin, State.answered_xferPending ho hp,
    State.xferAnswered_ok (s := { s with inputs := rest }) hl hbelow]

end Answers

/-- A presented SEND that passes its checks is started by the step (R171, R172). -/
theorem step_startSend {s : State} {p : Port} {mode : BitVec 2} {cmd : EncCmd} {er : Bool} {n : Nat}
    {lv : LogicalValue} (hc : s.cfg.WF) (ha : s.acceptable = some p) (hd : decode p = .ok (.send mode cmd er n))
    (hmode : mode ≠ 3#2) (hbuild : buildCmd s.cfg cmd = .ok lv) :
    step s = .next (s.accept.startSend mode lv er n) := by
  have hw : cmd.wellFormed = true := decode_send hd ▸ decodeKind_wellFormed p
  rw [step_accept hc ha, acceptPort_wellFormed hd hw]
  exact exec_send_ok (State.acceptable_some.mp ha).1 (sendPrepare_ok.mpr ⟨hmode, rfl, hbuild⟩)

/-- Settles O42: the SEND is started, its LineWrite is answered, its Exchange is answered; the encoder's own run builds
the same value. -/
theorem sendCompletesInThreeSteps : Obligations.SendCompletesInThreeSteps := by
  intro s p mode cmd er n reply rest hc hidle hpresented hport hd hmode hlegal hreply hin
  have ha : s.acceptable = some p :=
    State.acceptable_some.mpr ⟨hidle, hpresented, by simp [State.resetNext, hin], hport⟩
  obtain ⟨lv, hbuild⟩ := buildCmd_of_legal hlegal
  obtain ⟨i, hi⟩ := encodeCommand_of_buildCmd hbuild
  obtain ⟨u, hexec, hto⟩ := exec_encoder_encodedTo hc hidle hi hbuild
  have hpacket : (frameLv s.cfg lv).out = commandPacket s.cfg lv :=
    frameLv_out hc.wordWidth (buildCmd_valid hc hbuild).2
  refine ⟨i, u, lv, _, _, _, hi, hexec, hto, step_startSend hc ha hd hmode hbuild,
    step_lineOk hc rfl rfl rfl (by simp) hin,
    step_xferOk hc rfl rfl rfl (by simp) rfl hreply, rfl, rfl, rfl, rfl, rfl, rfl, rfl, rfl, ?_, rfl, ?_, rfl, rfl, rfl,
    ?_, ?_⟩
  · simp [State.captureReply, hpacket]
  · simp [State.captureReply, hpacket]
  · rintro rfl
    exact ⟨_, rfl, decodeWords_reads hreply⟩
  · rintro rfl
    rfl

end Sys2Proof.Machine
end

section
/-! SUPPORT. Proofs of the statements about TelemetryDecoder (42_telemetry_decoder.md): what DECODE_TELEMETRY does in
IDLE, and what a frame tells of the integer it is read off: the bits below 46, each of them, and no other. -/

namespace Sys2Proof.Machine

/-! ### DECODE_TELEMETRY, run (R151, R153) -/

/-- DECODE_TELEMETRY in IDLE at width 0. -/
theorem exec_decodeTelemetry_zero {s : State} (hidle : s.phase = .idle) (words : List TransportWord) :
    exec (.decodeTelemetry words 0) s = .next (s.accept.raise (.width 0)) := by
  rw [exec_pure (r := telemetryOp words 0) rfl]
  exact State.runPure_error hidle (.width 0)

/-- Settles O31: the decoded frame reads off the sum of the words, and the check refuses width 0. -/
theorem decodeTelemetryReadsTheNineFields : Obligations.DecodeTelemetryReadsTheNineFields := by
  constructor
  · intro words W s hidle hW hwords
    exact ⟨_, _, exec_decodeTelemetry hidle hW words, s.accept_store_endOk_endedOk _, rfl, rfl,
      decodeWords_reads hwords⟩
  · intro words s hidle
    exact ⟨_, exec_decodeTelemetry_zero hidle words, s.accept_raise_endedErr rfl rfl⟩

/-! ### The integer a frame is read off (R79, R155, R156) -/

/-- The fields of a frame are numbers the integer determines. -/
theorem FrameReads.unique {X : Nat} {f g : Frame} (hf : FrameReads X f) (hg : FrameReads X g) : f = g := by
  cases f
  cases g
  simp only [Frame.mk.injEq]
  exact ⟨BitVec.eq_of_toNat_eq (hf.temp.trans hg.temp.symm), BitVec.eq_of_toNat_eq (hf.pwr0.trans hg.pwr0.symm),
    BitVec.eq_of_toNat_eq (hf.pwr1.trans hg.pwr1.symm), BitVec.eq_of_toNat_eq (hf.pwr2.trans hg.pwr2.symm),
    BitVec.eq_of_toNat_eq (hf.pwr3.trans hg.pwr3.symm), BitVec.eq_of_toNat_eq (hf.pwr4.trans hg.pwr4.symm),
    BitVec.eq_of_toNat_eq (hf.pwr5.trans hg.pwr5.symm), BitVec.eq_of_toNat_eq (hf.pwr6.trans hg.pwr6.symm),
    BitVec.eq_of_toNat_eq (hf.pwr7.trans hg.pwr7.symm)⟩

/-- A field that ends at or below bit 46 is the same in integers that agree there. -/
theorem field_eq_of_mod_eq {X Y shift n : Nat} (hfield : shift + n ≤ 46) (h : X % 2 ^ 46 = Y % 2 ^ 46) :
    X / 2 ^ shift % 2 ^ n = Y / 2 ^ shift % 2 ^ n := by
  have hmod : X % 2 ^ (shift + n) = Y % 2 ^ (shift + n) := Nat.ModEq.of_dvd (pow_dvd_pow 2 hfield) h
  rw [← Nat.mod_mul_right_div_self, ← Nat.mod_mul_right_div_self, ← pow_add, hmod]

/-- All nine fields end there (R155). -/
theorem FrameReads.of_mod_eq {X Y : Nat} {f : Frame} (hf : FrameReads X f) (h : X % 2 ^ 46 = Y % 2 ^ 46) :
    FrameReads Y f where
  temp := hf.temp.trans (Nat.ModEq.of_dvd (pow_dvd_pow 2 (by decide)) h)
  pwr0 := hf.pwr0.trans (field_eq_of_mod_eq (by decide) h)
  pwr1 := hf.pwr1.trans (field_eq_of_mod_eq (by decide) h)
  pwr2 := hf.pwr2.trans (field_eq_of_mod_eq (by decide) h)
  pwr3 := hf.pwr3.trans (field_eq_of_mod_eq (by decide) h)
  pwr4 := hf.pwr4.trans (field_eq_of_mod_eq (by decide) h)
  pwr5 := hf.pwr5.trans (field_eq_of_mod_eq (by decide) h)
  pwr6 := hf.pwr6.trans (field_eq_of_mod_eq (by decide) h)
  pwr7 := hf.pwr7.trans (field_eq_of_mod_eq (by decide) h)

/-- A frame reads off its own integer: below each field lie the fields before it, which do not reach it. -/
theorem frameInt_reads (f : Frame) : FrameReads (frameInt f) f := by
  have htemp := f.temp.isLt
  have hpwr0 := f.pwr0.isLt
  have hpwr1 := f.pwr1.isLt
  have hpwr2 := f.pwr2.isLt
  have hpwr3 := f.pwr3.isLt
  have hpwr4 := f.pwr4.isLt
  have hpwr5 := f.pwr5.isLt
  have hpwr6 := f.pwr6.isLt
  have hpwr7 := f.pwr7.isLt
  constructor
  all_goals
    unfold frameInt
    omega

/-- Settles O33: the words' integers agree modulo 2^46, so the frame of one reads off the other. -/
theorem telemetryIgnoresBitsAboveFortyFive : Obligations.TelemetryIgnoresBitsAboveFortyFive := by
  intro words words' W W' s s' hidle hidle' hW hW' hwords hwords' hbits
  have hmod : wordsInt W words % 2 ^ 46 = wordsInt W' words' % 2 ^ 46 := by
    refine Nat.eq_of_testBit_eq fun i => ?_
    rw [Nat.testBit_mod_two_pow, Nat.testBit_mod_two_pow, wordsInt_testBit hW hwords, wordsInt_testBit hW' hwords']
    by_cases hi : i < 46
    · rw [hbits i hi]
    · simp [hi]
  have hframe : decodeWords words W = decodeWords words' W' :=
    ((decodeWords_reads hwords).of_mod_eq hmod).unique (decodeWords_reads hwords')
  exact ⟨_, _, decodeWords words' W', exec_decodeTelemetry hidle hW words, exec_decodeTelemetry hidle' hW' words',
    congrArg some hframe, rfl⟩

/-! ### A frame put in words (R156) -/

theorem digitsLE_below (S W n : Nat) : WordsBelow W (digitsLE S W n) := by
  intro r hr
  obtain ⟨k, -, rfl⟩ := List.mem_map.mp hr
  exact digit_lt S W k

/-- The words of a frame's integer, whatever stands from bit 46 up, decode to the frame. -/
theorem decodeWords_digitsLE_reverse {f : Frame} {high W n : Nat} (h : frameInt f + high * 2 ^ 46 < 2 ^ (n * W)) :
    decodeWords (digitsLE (frameInt f + high * 2 ^ 46) W n).reverse W = f := by
  have hbelow : WordsBelow W (digitsLE (frameInt f + high * 2 ^ 46) W n).reverse :=
    fun r hr => digitsLE_below _ W n r (List.mem_reverse.mp hr)
  have hint : wordsInt W (digitsLE (frameInt f + high * 2 ^ 46) W n).reverse = frameInt f + high * 2 ^ 46 :=
    (wordsInt_digitsLE_reverse _ W n).trans (Nat.mod_eq_of_lt h)
  have hmod : frameInt f % 2 ^ 46 = (frameInt f + high * 2 ^ 46) % 2 ^ 46 := (Nat.add_mul_mod_self_right _ _ _).symm
  exact (hint ▸ decodeWords_reads hbelow).unique ((frameInt_reads f).of_mod_eq hmod)

/-- Settles O34: DECODE_TELEMETRY writes the frame of its words, which is the one they were made of. -/
theorem everyFrameCanBeSentAndDecoded : Obligations.EveryFrameCanBeSentAndDecoded := by
  intro f high W n s hidle hW hfits
  refine ⟨_, exec_decodeTelemetry hidle hW _, s.accept_store_endOk_endedOk _, ?_⟩
  rw [decodeWords_digitsLE_reverse hfits]
  rfl

end Sys2Proof.Machine
end

section
/-! SUPPORT. Proofs of the statements about ModeDispatcher (43_mode_dispatcher.md): MODE_LINE_VALUE, the acceptance of
SEND, the two answers it waits for and what does not move it meanwhile, and the movements of `phase` and TRACE. -/

namespace Sys2Proof.Machine

/-! ### The acceptance of SEND (R172, R197) -/

/-- MODE is checked before the command (R172). -/
theorem sendPrepare_mode_error (c : Config) (cmd : EncCmd) : sendPrepare c 3#2 cmd = .error (.range 5) := rfl

/-- Settles O36: a legal command is built alike by its encoder's own run and by SEND, and the first failing check
raises its RangeError. -/
theorem sendAcceptanceChecksThenWritesTheLine : Obligations.SendAcceptanceChecksThenWritesTheLine := by
  refine ⟨?_, ?_, ?_⟩
  · intro mode cmd er n s _ hidle hmode hlegal
    obtain ⟨lv, hbuild⟩ := buildCmd_of_legal hlegal
    obtain ⟨i, hi⟩ := encodeCommand_of_buildCmd hbuild
    have hsend := sendPrepare_ok.mpr ⟨hmode, rfl, hbuild⟩
    exact ⟨i, _, lv, (frameLv s.cfg lv).out, hi, exec_encoder_ok hidle hi hbuild, rfl, rfl, rfl,
      exec_send_ok hidle hsend⟩
  · intro cmd er n s hidle
    exact ⟨_, exec_send_error hidle (sendPrepare_mode_error s.cfg cmd), s.accept_raise_range_endedErr 5⟩
  · intro mode cmd er n s _ hidle hmode hillegal
    exact ⟨_, exec_send_error hidle (sendPrepare_buildCmd_error hmode (buildCmd_illegal hillegal)),
      s.accept_raise_range_endedErr _⟩

/-! ### What a SEND in progress does not react to (R171, R177) -/

/-- An operation presented while BUSY is held (R171; log 15). -/
theorem exec_busy {s : State} (hbusy : s.phase ≠ .idle) (i : Instr) : exec i s = .next s := by
  obtain ⟨t, h⟩ := everyOperationContinues i s
  rcases exec_cases h with ⟨-, rfl⟩ | ⟨hidle, -⟩ | ⟨hidle, -⟩ | ⟨hidle, -⟩ | ⟨hidle, -⟩
  · exact h
  all_goals exact absurd hidle hbusy

/-- An operation accepted in IDLE leaves the port (R171). -/
theorem exec_idle_presented {i : Instr} {s t : State} (hidle : s.phase = .idle) (h : exec i s = .next t) :
    t.presented = false := by
  rcases exec_idle_uniform i s.cfg with ⟨e, hexec⟩ | ⟨e, hexec⟩ | ⟨v, lv, er, n, hexec⟩
  all_goals
    obtain rfl := Host.Outcome.next.inj ((hexec s rfl hidle).symm.trans h)
    rfl

/-- An answer during a SEND leaves an operation that waits at the port there: it acts alike whatever the port holds,
so with what the port does hold. -/
theorem step_answer_keeps_port {s t : State} {id : Nat} {r : Response} {rest : List Input} (hbusy : s.phase ≠ .idle)
    (hin : s.inputs = .answer id r :: rest) (h : step s = .next t) :
    t.port = s.port ∧ t.presented = s.presented := by
  have hsame : step s = .next (t.withPort s.port s.presented) :=
    operandChangesDoNotReachASendInProgress s t s.port s.presented id r rest hbusy hin h
  have ht : t = t.withPort s.port s.presented := Host.Outcome.next.inj (h.symm.trans hsame)
  rw [ht]
  exact ⟨rfl, rfl⟩

/-- Settles O44: held while BUSY by `exec_busy`, kept at the port by an answer, accepted by the step in IDLE; that a
pure operation stays in IDLE is part of its frame. -/
theorem operationIsHeldWhileBusy : Obligations.OperationIsHeldWhileBusy := by
  refine ⟨fun i s hbusy => exec_busy hbusy i, fun s t id r rest => step_answer_keeps_port, ?_, ?_⟩
  · intro s p i hc hidle hpresented hreset hport hd hw
    obtain ⟨t, hexec⟩ := everyOperationContinues i s
    have hstep := stepRunsThePresentedOperation s p i hc hidle hpresented hreset hport hd hw
    exact ⟨t, hstep.trans hexec, hexec, exec_idle_presented hidle hexec⟩
  · intro i s t hpure hidle hexec
    obtain ⟨-, -, -, -, -, -, -, -, -, -, -, hframe, -⟩ := operationsWriteOnlyWhatTheyList i s t hidle hexec
    obtain ⟨-, hphase, -⟩ := hframe hpure
    exact hphase

/-- The event does not answer the outstanding request: any but an answer, or a late answer (R32; log 4). -/
def State.NotAnsweredBy (s : State) (i : Input) : Prop :=
  ∀ id r, i = .answer id r → s.outstanding = none ∨ id + 1 ≠ s.trace.length

/-- During a SEND such an event reaches the operand registers at most, and what is known of the line (R171, R177). -/
theorem step_notAnswered_busy {s : State} {i : Input} {rest : List Input} (hc : s.cfg.WF) (hbusy : s.phase ≠ .idle)
    (hin : s.inputs = i :: rest) (hreset : i ≠ .reset) (hnot : s.NotAnsweredBy i) :
    ∃ port presented line, step s =
      .next { s with port := port, presented := presented, line := line, inputs := rest } := by
  have ha := State.acceptable_busy hbusy
  cases i with
  | drive p => exact ⟨_, _, _, (callerWritesThePort s p rest hc ha).1 hin⟩
  | present p => exact ⟨_, _, _, (callerWritesThePort s p rest hc ha).2 hin⟩
  | answer id r => exact ⟨_, _, _, lateAnswerIsDiscarded s id r rest hc ha hin (hnot id r rfl)⟩
  | reset => exact absurd rfl hreset

/-- Settles O45: with nothing to come the environment stops the step; an event that is neither the awaited answer nor
the reset input does not reach the SEND. -/
theorem sendWaitsForItsResponse : Obligations.SendWaitsForItsResponse := by
  constructor
  · intro s hc hbusy hin
    rw [step_environment hc (State.acceptable_busy hbusy)]
    rcases environment_nothing hin with ⟨-, hidle⟩ | ⟨hstop, -⟩
    · exact absurd hidle hbusy
    · exact hstop
  · intro s t i rest hbusy hin hreset hnot h
    obtain ⟨port, presented, line, hstep⟩ := step_notAnswered_busy (step_cases h).1 hbusy hin hreset hnot
    obtain rfl := Host.Outcome.next.inj (hstep.symm.trans h)
    exact ⟨rfl, s.busy_iff.mpr hbusy, rfl, rfl, rfl, rfl, rfl, rfl, rfl⟩

/-! ### The movements of phase and TRACE (R170, R178, R180) -/

/-- An operation keeps TRACE and phase unless it is a SEND that passed its checks, which appends its Line. -/
theorem exec_moves {i : Instr} {s t : State} (h : exec i s = .next t) :
    (t.trace = s.trace ∧ t.phase = s.phase) ∨
    (s.phase = .idle ∧ t.phase = .linePending ∧ ∃ v cmd er n, i = .send v cmd er n ∧ v ≠ 3#2 ∧ CmdLegal s.cfg cmd ∧
      t.trace = s.trace ++ [.line v] ∧ t.outstanding = some (.line v)) := by
  rcases exec_cases h with ⟨-, rfl⟩ | ⟨hidle, -, e, -, rfl⟩ | ⟨hidle, -, e, -, rfl⟩ |
    ⟨hidle, m, cmd, er, n, -, e, -, rfl⟩ | ⟨hidle, m, cmd, er, n, rfl, v, lv, hsend, rfl⟩
  · exact .inl ⟨rfl, rfl⟩
  · exact .inl ⟨rfl, hidle.symm⟩
  · exact .inl ⟨rfl, hidle.symm⟩
  · exact .inl ⟨rfl, hidle.symm⟩
  · obtain ⟨hmode, rfl, hbuild⟩ := sendPrepare_ok.mp hsend
    exact .inr ⟨hidle, rfl, v, cmd, er, n, rfl, hmode, buildCmd_legal hbuild, rfl, rfl⟩

theorem execReservedOp_moves {s t : State} (h : execReservedOp s = .next t) :
    t.trace = s.trace ∧ t.phase = s.phase := by
  rcases State.runPure_cases h with ⟨-, rfl⟩ | ⟨hidle, e, -, rfl⟩ | ⟨hidle, e, -, rfl⟩
  · exact ⟨rfl, rfl⟩
  · exact ⟨rfl, hidle.symm⟩
  · exact ⟨rfl, hidle.symm⟩

/-- The answers that end a SEND in the phase it is in (R174 to R176). -/
def Phase.EndedBy (phase : Phase) (r : Response) : Prop :=
  (phase = .linePending ∧ ∃ e, r = .lineFail e) ∨
  (phase = .xferPending ∧ ((∃ reply, r = .xferOk reply) ∨ ∃ e, r = .xferFail e))

/-- An answer keeps TRACE and phase, ends the SEND, or, to a LineWrite that went well, appends the Xfer of the latched
packet. -/
theorem State.answered_moves {s t : State} {id : Nat} {r : Response} (h : s.answered id r = .next t) :
    (t.trace = s.trace ∧ t.phase = s.phase) ∨
    (s.isOutstanding id = true ∧ s.phase.EndedBy r ∧ t.trace = s.trace ∧ t.phase = .idle) ∨
    (s.isOutstanding id = true ∧ r = .lineOk ∧ s.phase = .linePending ∧ t.phase = .xferPending ∧
      ∃ l, s.latch = some l ∧ t.trace = s.trace ++ [.xfer l.packet l.readLen] ∧
        t.outstanding = some (.xfer l.packet l.readLen)) := by
  rcases State.answered_cases h with rfl | ⟨ho, hp, ha⟩ | ⟨ho, hp, ha⟩
  · exact .inl ⟨rfl, rfl⟩
  · rcases State.lineAnswered_cases ha with ⟨l, hlatch, rfl, rfl⟩ | ⟨e, rfl, rfl⟩
    · exact .inr (.inr ⟨ho, rfl, hp, rfl, l, hlatch, rfl, rfl⟩)
    · exact .inr (.inl ⟨ho, .inl ⟨hp, e, rfl⟩, rfl, rfl⟩)
  · rcases State.xferAnswered_cases ha with ⟨l, reply, -, rfl, -, rfl⟩ | ⟨e, rfl, rfl⟩
    · exact .inr (.inl ⟨ho, .inr ⟨hp, .inl ⟨reply, rfl⟩⟩, rfl, rfl⟩)
    · exact .inr (.inl ⟨ho, .inr ⟨hp, .inr ⟨e, rfl⟩⟩, rfl, rfl⟩)

/-- An answer to the outstanding request names the last place of TRACE (R31 (b); log 4). -/
theorem State.isOutstanding_last {s : State} {id : Nat} (h : s.isOutstanding id = true) :
    s.outstanding ≠ none ∧ id + 1 = s.trace.length := by
  obtain ⟨q, hq, hid⟩ := State.isOutstanding_iff.mp h
  exact ⟨by simp [hq], hid.symm⟩

/-- Settles O47: an accepted operation moves as `exec_moves` says, an answer as `State.answered_moves` says, the reset
input back to IDLE, and nothing else moves. -/
theorem phaseAndTraceMoveOnlyBySendStepsAndReset : Obligations.PhaseAndTraceMoveOnlyBySendStepsAndReset := by
  intro s t h
  obtain ⟨-, ⟨p, i, ha, hd, -, he⟩ | ⟨p, -, he⟩ | ⟨-, he⟩⟩ := step_cases h
  · rcases exec_moves he with hkept | ⟨hidle, hphase, v, cmd, er, n, rfl, hline⟩
    · exact .inl hkept
    · exact .inr (.inr (.inl ⟨hidle, hphase, p, v, cmd, er, n, ha, hd, hline⟩))
  · exact .inl (execReservedOp_moves he)
  · obtain ⟨i, rest, hin, ⟨p, -, rfl⟩ | ⟨p, -, rfl⟩ | ⟨id, r, rfl, hans⟩ | ⟨rfl, rfl⟩⟩ := environment_cases he
    · exact .inl ⟨rfl, rfl⟩
    · exact .inl ⟨rfl, rfl⟩
    · rcases State.answered_moves hans with hkept | ⟨ho, hends, htrace, hphase⟩ |
        ⟨ho, rfl, hp, hphase, l, hlatch, hissued⟩
      · exact .inl hkept
      · obtain ⟨hq, hid⟩ := State.isOutstanding_last ho
        exact .inr (.inl ⟨htrace, hphase, _, rest, hin, .inr ⟨id, r, rfl, hq, hid, hends⟩⟩)
      · obtain ⟨hq, hid⟩ := State.isOutstanding_last ho
        exact .inr (.inr (.inr ⟨hp, hphase, l, hlatch, ⟨id, rest, hin, hq, hid⟩, hissued⟩))
    · exact .inr (.inl ⟨rfl, rfl, _, rest, hin, .inl rfl⟩)

/-! ### MODE_LINE_VALUE (R166) -/

theorem exec_modeLineValue_ok {mode : BitVec 2} {s : State} (hidle : s.phase = .idle) (hmode : mode ≠ 3#2) :
    exec (.modeLineValue mode) s = .next (s.accept.store { results := { line := some mode } }).endOk := by
  rw [exec_pure (r := modeLineOp mode) rfl, modeLineOp, lineOf_ok.mpr ⟨hmode, rfl⟩]
  exact State.runPure_ok hidle _

theorem exec_modeLineValue_error {s : State} (hidle : s.phase = .idle) :
    exec (.modeLineValue 3#2) s = .next (s.accept.raise (.range 5)) := by
  rw [exec_pure (r := modeLineOp 3#2) rfl]
  exact State.runPure_error hidle (.range 5)

/-- Settles O35: a mode of the table is stored in RES_LINE, the fourth code is refused. -/
theorem modeLineValueIsTheModeNumber : Obligations.ModeLineValueIsTheModeNumber := by
  intro mode s hidle
  constructor
  · intro hmode
    exact ⟨_, exec_modeLineValue_ok hidle hmode, s.accept_store_endOk_endedOk _, rfl, rfl⟩
  · rintro rfl
    exact ⟨_, exec_modeLineValue_error hidle, s.accept_raise_range_endedErr 5⟩

/-! ### The answers (R173 to R176) -/

section Answers
variable {s : State} {q : Request} {e : TransportError} {id : Nat} {rest : List Input}

/-- The outstanding LineWrite answered `fail`: the SEND ends at stage 0 (R174). -/
theorem step_lineFail (hc : s.cfg.WF) (hp : s.phase = .linePending) (hq : s.outstanding = some q)
    (hid : s.trace.length = id + 1) (hin : s.inputs = .answer id (.lineFail e) :: rest) :
    step s = .next (State.raise { s with inputs := rest, line := none } (.transport 0 e)) := by
  have ho : State.isOutstanding { s with inputs := rest } id = true := State.isOutstanding_iff.mpr ⟨q, hq, hid⟩
  rw [step_answer_busy hc (by simp [hp]) hin, State.answered_linePending ho hp]
  rfl

/-- The outstanding Exchange answered `fail`: the SEND ends at stage 1 (R176). -/
theorem step_xferFail (hc : s.cfg.WF) (hp : s.phase = .xferPending) (hq : s.outstanding = some q)
    (hid : s.trace.length = id + 1) (hin : s.inputs = .answer id (.xferFail e) :: rest) :
    step s = .next (State.raise { s with inputs := rest } (.transport 1 e)) := by
  have ho : State.isOutstanding { s with inputs := rest } id = true := State.isOutstanding_iff.mpr ⟨q, hq, hid⟩
  rw [step_answer_busy hc (by simp [hp]) hin, State.answered_xferPending ho hp]
  rfl

end Answers

/-- Settles O38: the step issues the Exchange of the latched packet. -/
theorem lineOkIssuesTheExchange : Obligations.LineOkIssuesTheExchange := by
  intro s l q id rest hc hp hl hq hid hin
  exact ⟨q.lineValue, step_lineOk hc hp hl hq hid hin⟩

/-- Settles O39: the step raises the transport's report at stage 0. -/
theorem lineFailureAbortsTheCommand : Obligations.LineFailureAbortsTheCommand := by
  intro s q e id rest hc hp hq hid hin
  exact ⟨none, step_lineFail hc hp hq hid hin⟩

/-- Settles O40: the step captures the reply, whose decode reads off the words' sum, and lists RES_FRAME only when the
latch expects a reply. -/
theorem exchangeOkCapturesAndDecodesTheReply : Obligations.ExchangeOkCapturesAndDecodesTheReply := by
  intro s l q reply id rest hc hp hl hq hid hin hreply
  refine ⟨decodeWords reply s.cfg.W, decodeWords_reads hreply, ?_⟩
  rw [step_xferOk hc hp hl hq hid hin hreply]
  cases l.expect with
  | true => rfl
  | false => rfl

/-- Settles O41: the step raises the transport's report at stage 1. -/
theorem exchangeFailureIsReportedAtStageOne : Obligations.ExchangeFailureIsReportedAtStageOne := by
  intro s q e id rest hc hp hq hid hin
  exact step_xferFail hc hp hq hid hin

end Sys2Proof.Machine
end

section
/-! SUPPORT. Proofs of the statements about reset and the hazards (70_reset_and_hazards.md): what an answer that CORE
consumes makes known of the mode-select line, and what can happen to CORE while it has no operation to accept in
IDLE. -/

namespace Sys2Proof.Machine

/-! ### What is known of the line (R31, R239; log 14) -/

/-- While a SEND is in progress a request is outstanding (R31 (b)). -/
theorem State.Inv.outstanding_of_busy {s : State} (h : s.Inv) (hbusy : s.busy = true) :
    ∃ q, s.outstanding = some q := by
  cases hp : s.phase with
  | idle => exact absurd hp (s.busy_iff.mp hbusy)
  | linePending =>
    obtain ⟨l, v, -, hq, -⟩ := h.linePending hp
    exact ⟨_, hq⟩
  | xferPending =>
    obtain ⟨l, -, hq, -⟩ := h.xferPending hp
    exact ⟨_, hq⟩

/-- An answer to the outstanding request after which the machine goes on is one that R13 allows. -/
theorem State.Inv.allowed_of_step {s t : State} {q : Request} {id : Nat} {r : Response} {rest : List Input}
    (h : s.Inv) (hq : s.outstanding = some q) (hid : s.trace.length = id + 1) (hin : s.inputs = .answer id r :: rest)
    (hstep : step s = .next t) : r.Allowed s.cfg.W q := by
  by_contra hr
  cases ((answersNotAllowedAreRefused s q id r rest h hq hid hin).1 hr).symm.trans hstep

/-- Settles O43: the outstanding request is the one the phase waits for, the answer has to be one of the two to that
request, and the step is then the one of R173, R174 or R176. -/
theorem whatIsKnownOfTheLine : Obligations.WhatIsKnownOfTheLine := by
  intro s t id rest h hbusy hid hstep
  obtain ⟨q, hq⟩ := h.outstanding_of_busy hbusy
  obtain ⟨l, hl, ⟨hp, v, rfl⟩ | ⟨hp, rfl⟩⟩ := h.pending hq
  · refine ⟨fun v' hv' hin => ?_, fun e hin => ?_, fun e hin => ?_⟩
    · obtain rfl := Host.Outcome.next.inj ((step_lineOk h.config hp hl hv' hid hin).symm.trans hstep)
      rfl
    · obtain rfl := Host.Outcome.next.inj ((step_lineFail h.config hp hq hid hin).symm.trans hstep)
      rfl
    · exact (h.allowed_of_step hq hid hin hstep).elim
  · refine ⟨fun v' hv' => ?_, fun e hin => ?_, fun e hin => ?_⟩
    · cases hq.symm.trans hv'
    · exact (h.allowed_of_step hq hid hin hstep).elim
    · obtain rfl := Host.Outcome.next.inj ((step_xferFail h.config hp hq hid hin).symm.trans hstep)
      rfl

/-! ### Waiting in IDLE (R221; logs 5, 23) -/

/-- With nothing to accept and nothing to come CORE waits in IDLE. -/
theorem step_idle_nothing {s : State} (hc : s.cfg.WF) (hidle : s.phase = .idle) (ha : s.acceptable = none)
    (hin : s.inputs = []) : step s = .fault .noOperationPresented := by
  rw [step_environment hc ha]
  rcases environment_nothing hin with ⟨hwait, -⟩ | ⟨-, hbusy⟩
  · exact hwait
  · exact absurd hidle (s.busy_iff.mp hbusy)

/-- In IDLE every answer is a late one (R32). -/
theorem State.answered_idle {s : State} (hidle : s.phase = .idle) (id : Nat) (r : Response) :
    s.answered id r = .next s.discard := by
  simp [State.answered, hidle]

/-- In IDLE an event other than the reset input reaches the operand registers at most, and what is known of the line
(R23, R32). -/
theorem environment_idle {s : State} {i : Input} {rest : List Input} (hidle : s.phase = .idle)
    (hin : s.inputs = i :: rest) (hreset : i ≠ .reset) :
    ∃ port presented line, environment s =
      .next { s with port := port, presented := presented, line := line, inputs := rest } := by
  cases i with
  | drive p => exact ⟨some p, s.presented, s.line, by simp [environment, hin, State.drive]⟩
  | present p => exact ⟨some p, true, s.line, by simp [environment, hin, State.present]⟩
  | answer id r =>
    refine ⟨s.port, s.presented, none, ?_⟩
    rw [environment_answer hin]
    exact State.answered_idle (s := { s with inputs := rest }) hidle id r
  | reset => exact absurd rfl hreset

/-- Settles O46: with nothing to come the step is the wait, right after reset too; an event that comes reaches nothing
but the port and what is known of the line. -/
theorem idleWaitsForAnOperation : Obligations.IdleWaitsForAnOperation := by
  refine ⟨fun s => step_idle_nothing, fun c hc => step_idle_nothing hc rfl rfl rfl, ?_⟩
  intro s t i rest hidle ha hin hreset hstep
  obtain ⟨port, presented, line, henv⟩ := environment_idle hidle hin hreset
  rw [step_environment (step_cases hstep).1 ha, henv] at hstep
  obtain rfl := Host.Outcome.next.inj hstep
  exact ⟨hidle, rfl, rfl, rfl, rfl, rfl, rfl, rfl, rfl⟩

end Sys2Proof.Machine
end
